-- ==== Sys2Proof/Word.lean ====
section
/-! DEFINITION. The word types of the transmitter: one message cell and one line symbol (00_scope.md R12). -/

namespace Sys2Proof

/-- One cell of the message buffer: 8 bits (20_memory.md R50). -/
abbrev Byte := BitVec 8

/-- One symbol of the Bit Sequence, and the level of the actuator: `true` is 1 (ON), `false` is 0 (OFF)
(00_scope.md section 7, 43_output_driver.md R170). -/
abbrev Symbol := Bool

end Sys2Proof
end

