-- ==== Sys2Proof/Config.lean ====
section
/-! DEFINITION. What an implementation of the block fixes (00_scope.md R5 to R9), the protocol constants (R8), and
the free value of a message cell that nothing has written (10_state.md R25, 70_reset_and_hazards.md R221). -/

namespace Sys2Proof

/-- A character code with its width: `CHAR_W` bits of `cmd_data` (00_scope.md R7). The width stands in the term, since
the spec leaves it a parameter (92_eei_decisions.md D4; log entry 4). -/
structure CharCode where
  /-- `CHAR_W`. -/
  width : Nat
  /-- The bits. -/
  bits : BitVec width
  deriving DecidableEq, Repr

/-- The parameters that the operations take as an argument (00_scope.md R5, R6, R7): they are not state (10_state.md
R29 (a)). -/
structure Params where
  /-- `SLOT_TICKS`: the slot duration in clock cycles (R5). -/
  slotTicks : Nat
  /-- `MSG_MAX`: the capacity of the message buffer, without the pad (R6). -/
  msgMax : Nat
  /-- `CHAR_W`: the width of `cmd_data` (R7). -/
  charW : Nat
  deriving DecidableEq, Repr

/-- The constraints of R5, R6 and R7; outside them there is no block (93_implementation_defined.md U14). -/
abbrev Params.Ok (p : Params) : Prop := 1 ≤ p.slotTicks ∧ 1 ≤ p.msgMax ∧ 8 ≤ p.charW

/-- The configuration of the identity string of R1, `TTF2-TX(SLOT_TICKS=100, MSG_MAX=255, CHAR_W=16)`: the one that
`exec` and `step` run. DESIGN CHOICE, log entry 3. -/
def Config.reference : Params := { slotTicks := 100, msgMax := 255, charW := 16 }

/-- `PAD`: the code of the one space that is appended to every message (00_scope.md R8). PRESUMED: the spec takes the
code from general knowledge (93_implementation_defined.md G1), log entry 15. -/
def Config.pad : Byte := 0x20#8

/-- The number of symbols of the start marker and of the stop marker (00_scope.md R8). -/
def Config.markerLen : Nat := 12

/-- The number of symbols of a Character Frame: 8 data symbols and the parity (00_scope.md R8). -/
def Config.frameLen : Nat := 9

/-- What a message cell that nothing has written holds: unspecified (10_state.md R25, R37), so a free value, one for
each cell; `any value` in 93_implementation_defined.md U3. DESIGN CHOICE of the form, log entry 5. -/
opaque Config.unspecifiedCell : Nat → Byte

/-- The least `w` with `n ≤ 2 ^ w`: `ceil(log2(n))` for `n ≥ 1`. -/
def Config.ceilLog2 (n : Nat) : Nat := if n ≤ 1 then 0 else Nat.log2 (n - 1) + 1

/-- `L_MAX`: the longest Bit Sequence (00_scope.md R9). -/
def Params.lMax (p : Params) : Nat := 24 + 9 * (p.msgMax + 1)

/-- `CUR_W`: the width of CURSOR (00_scope.md R9). -/
def Params.curW (p : Params) : Nat := Config.ceilLog2 (p.lMax + 1)

/-- `LEN_W`: the width of LEN (00_scope.md R9). -/
def Params.lenW (p : Params) : Nat := Config.ceilLog2 (p.msgMax + 1)

/-- `SLOT_W`: the width of SLOTCNT (00_scope.md R9). -/
def Params.slotW (p : Params) : Nat := max 1 (Config.ceilLog2 p.slotTicks)

end Sys2Proof
end

