-- ==== Sys2Proof/Machine/Operands.lean ====
section
/-! DEFINITION. The one operand of the block, the character code: narrowing (40_encoder.md R100), the data symbols
(R101), the parity symbol (R102), the Character Frame (R103); 30_encoding.md R70, R73. Pure functions: they hold no
state and raise no condition (R110). -/

namespace Sys2Proof.Machine

/-- ENC_CODE (40_encoder.md R100, `trunc_8` of 00_scope.md R13): the low 8 bits, for any width of the code. -/
def encCode {w : Nat} (v : BitVec w) : Byte := v.setWidth 8

/-- ENC_DATA (40_encoder.md R101): the 8 data symbols, most significant bit first. -/
def encData (c : Byte) : List Symbol :=
  [c.getLsbD 7, c.getLsbD 6, c.getLsbD 5, c.getLsbD 4, c.getLsbD 3, c.getLsbD 2, c.getLsbD 1, c.getLsbD 0]

/-- ENC_PAR (40_encoder.md R102): the exclusive or of the 8 data bits. -/
def encPar (c : Byte) : Symbol :=
  c.getLsbD 7 ^^ c.getLsbD 6 ^^ c.getLsbD 5 ^^ c.getLsbD 4 ^^ c.getLsbD 3 ^^ c.getLsbD 2 ^^ c.getLsbD 1 ^^
    c.getLsbD 0

/-- ENC_FRAME (40_encoder.md R103): the data symbols, then the parity symbol. -/
def encFrame (c : Byte) : List Symbol := encData c ++ [encPar c]

/-- The symbol at index `k` of the nine symbols with the data bits `d` and the ninth symbol `q` (30_encoding.md R70). -/
def cfSymbol (d : Byte) (q : Symbol) (k : Nat) : Symbol := if k ≤ 7 then d.getLsbD (7 - k) else q

/-- FRAME_BIT (40_encoder.md R103): symbol `k` of the Character Frame of `c`. -/
def frameBit (c : Byte) (k : Nat) : Symbol := cfSymbol c (encPar c) k

end Sys2Proof.Machine
end

