-- ==== Sys2Proof/Syntax.lean ====
section
/-! DEFINITION. The instructions: one constructor for each row of spec/opcode_table.json, with every bit that the
row's encoding leaves free as an operand, whether or not the block looks at it (30_encoding.md R74, R77, R70; log
entry 17). A command carries its code with the code's width (00_scope.md R7; log entry 4). -/

namespace Sys2Proof

/-- The formats of 30_encoding.md: R74 (CMD), R77 (SCHED), R70 (CF) and the marker rows of R71 (TF). -/
inductive Format where
  | cmd | sched | cf | tf
  deriving DecidableEq, Repr

/-- The 18 rows of spec/opcode_table.json. -/
inductive Instr where
  /-- PUSH: append one character to the message (41_commands.md R121). -/
  | push (data : CharCode)
  /-- CLEAR: empty the message buffer (R122); `data` is ignored. -/
  | clear (data : CharCode)
  /-- START: begin a Transmission Session (R123); `data` is ignored. -/
  | start (data : CharCode)
  /-- CANCEL: signal cancellation (R124); `data` is ignored. -/
  | cancel (data : CharCode)
  /-- The reserved code 0b000 (R125); `data` is ignored. -/
  | op0 (data : CharCode)
  /-- The reserved code 0b101 (R125); `data` is ignored. -/
  | op5 (data : CharCode)
  /-- The reserved code 0b110 (R125); `data` is ignored. -/
  | op6 (data : CharCode)
  /-- The reserved code 0b111 (R125); `data` is ignored. -/
  | op7 (data : CharCode)
  /-- HOLD: no session (42_scheduler.md R146); the four operands are don't-care bits of the vector. -/
  | hold (z e k f : Bool)
  /-- FIN_COMPLETE: end of the sequence (R143); `k` and `f` are don't-care bits. -/
  | finComplete (k f : Bool)
  /-- FIN_CANCEL: cancellation seen at a slot boundary (R144); `f` is a don't-care bit. -/
  | finCancel (f : Bool)
  /-- EMIT: process one symbol (R141); `f` is a don't-care bit. -/
  | emit (f : Bool)
  /-- FIN_INTERRUPT: the slot wait fails (R145); `e` and `k` are don't-care bits. -/
  | finInterrupt (e k : Bool)
  /-- WAIT: one cycle of the slot passes (R142); `e` and `k` are don't-care bits. -/
  | wait (e k : Bool)
  /-- CHARFRAME: a Character Frame with the data bits `d` and the parity symbol `p` (40_encoder.md R103). -/
  | charFrame (d : Byte) (p : Bool)
  /-- START_MARKER: the first twelve symbols of a Transmission Frame (40_encoder.md R106). -/
  | startMarker
  /-- STOP_MARKER: the last twelve symbols of a Transmission Frame (40_encoder.md R106). -/
  | stopMarker
  /-- PADFRAME: the Character Frame of the appended space (40_encoder.md R104). -/
  | padFrame
  deriving DecidableEq, Repr

/-- The format of an instruction's row. -/
def Instr.format : Instr → Format
  | .push _ | .clear _ | .start _ | .cancel _ | .op0 _ | .op5 _ | .op6 _ | .op7 _ => .cmd
  | .hold _ _ _ _ | .finComplete _ _ | .finCancel _ | .emit _ | .finInterrupt _ _ | .wait _ _ => .sched
  | .charFrame _ _ | .padFrame => .cf
  | .startMarker | .stopMarker => .tf

/-- The width of the code that a command carries (30_encoding.md R74); no other instruction has one. -/
def Instr.codeWidth : Instr → Option Nat
  | .push d | .clear d | .start d | .cancel d | .op0 d | .op5 d | .op6 d | .op7 d => some d.width
  | .hold _ _ _ _ | .finComplete _ _ | .finCancel _ | .emit _ | .finInterrupt _ _ | .wait _ _ => none
  | .charFrame _ _ | .startMarker | .stopMarker | .padFrame => none

/-- The instruction is one of the block with the parameters `p`: a command's code has CHAR_W bits (00_scope.md R7). -/
def Instr.fits (p : Params) (i : Instr) : Bool :=
  match i.codeWidth with
  | some w => w == p.charW
  | none => true

/-- The mnemonic of an instruction's row, as spec/opcode_table.json spells it. -/
def Instr.mnemonic : Instr → String
  | .push _ => "PUSH"
  | .clear _ => "CLEAR"
  | .start _ => "START"
  | .cancel _ => "CANCEL"
  | .op0 _ => "OP0"
  | .op5 _ => "OP5"
  | .op6 _ => "OP6"
  | .op7 _ => "OP7"
  | .hold _ _ _ _ => "HOLD"
  | .finComplete _ _ => "FIN_COMPLETE"
  | .finCancel _ => "FIN_CANCEL"
  | .emit _ => "EMIT"
  | .finInterrupt _ _ => "FIN_INTERRUPT"
  | .wait _ _ => "WAIT"
  | .charFrame _ _ => "CHARFRAME"
  | .startMarker => "START_MARKER"
  | .stopMarker => "STOP_MARKER"
  | .padFrame => "PADFRAME"

end Sys2Proof
end

