-- ==== Sys2Proof/WellFormed.lean ====
section
/-! DEFINITION. Which terms of Instr stand for a word of the spec. Every operand of a CMD or SCHED row may have every
value (30_encoding.md R74, R77, R78). Of the 9-symbol patterns exactly those with an even number of ones are
Character Frames (R70), and the pattern 001000001 is the row PADFRAME's (log entry 11). -/

namespace Sys2Proof

/-- The ninth symbol is the parity of the eight data bits (30_encoding.md R70). -/
def parityHolds (d : Byte) (p : Bool) : Bool := p == Machine.encPar d

/-- The pattern is not that of the row PADFRAME. DESIGN CHOICE, log entry 11. -/
def notPadPattern (d : Byte) : Bool := d != Config.pad

/-- Well-formed instructions: those that `encode` and `decode` carry to and fro. -/
def Instr.wf : Instr → Bool
  | .push _ | .clear _ | .start _ | .cancel _ | .op0 _ | .op5 _ | .op6 _ | .op7 _ => true
  | .hold _ _ _ _ | .finComplete _ _ | .finCancel _ | .emit _ | .finInterrupt _ _ | .wait _ _ => true
  | .charFrame d p => parityHolds d p && notPadPattern d
  | .startMarker | .stopMarker | .padFrame => true

end Sys2Proof
end

