-- ==== Sys2Proof/Decode.lean ====
section
/-! DEFINITION. The decoder and, after it, the encoder, both from the encodings of 30_encoding.md: the command word
(R74), the dispatch vector (R77), the Character Frame (R70) and the markers of the Transmission Frame (R71). The block
has no instruction memory (20_memory.md R52): a word is what stands on the command port, what the scheduler computes in
a cycle, or what is sent on the line. -/

namespace Sys2Proof

/-- A word of one of the four formats. -/
inductive CodeWord where
  /-- A command word `cmd_op, cmd_data` of a block with `CHAR_W = w`: `cmd_data` in bits `w - 1` to 0, `cmd_op` in the
  three bits above (30_encoding.md R74; log entry 4). -/
  | cmd (w : Nat) (word : BitVec (3 + w))
  /-- A dispatch vector `r, z, e, k, f`, `r` in bit 4 (R77). -/
  | sched (v : BitVec 5)
  /-- Nine symbols, the first transmitted in bit 8 (R70). -/
  | frame (w : BitVec 9)
  /-- Twelve symbols, the first transmitted in bit 11 (R71). -/
  | marker (w : BitVec 12)
  deriving DecidableEq, Repr

/-- Why the decoder refuses a word. No command word and no dispatch vector is refused (R78, R77). -/
inductive DecodeError where
  /-- Nine symbols with an odd number of ones: no Character Frame (R70). -/
  | oddParity
  /-- Twelve symbols that are neither marker (R71). -/
  | notMarker
  deriving DecidableEq, Repr

/-- What the decoder answers. -/
inductive Decoded where
  | instr (i : Instr)
  | rejected (e : DecodeError)
  deriving DecidableEq, Repr

/-- The command word's operation code, the three bits above the data (30_encoding.md R74). -/
def cmdOpOf {w : Nat} (word : BitVec (3 + w)) : BitVec 3 := word.extractLsb' w 3

/-- The command word's data field, its low `CHAR_W` bits (30_encoding.md R74). -/
def cmdDataOf {w : Nat} (word : BitVec (3 + w)) : BitVec w := word.extractLsb' 0 w

/-- The command word of an operation code and data: `{cmd_op, cmd_data}` (30_encoding.md R74). -/
def cmdWordOf {w : Nat} (op : BitVec 3) (d : BitVec w) : BitVec (3 + w) := op ++ d

/-- The command that an operation code and data stand for (30_encoding.md R74). -/
def decodeOp (op : BitVec 3) (d : CharCode) : Instr :=
  if op = 0b000#3 then .op0 d
  else if op = 0b001#3 then .push d
  else if op = 0b010#3 then .clear d
  else if op = 0b011#3 then .start d
  else if op = 0b100#3 then .cancel d
  else if op = 0b101#3 then .op5 d
  else if op = 0b110#3 then .op6 d
  else .op7 d

/-- A command word (30_encoding.md R74): every word, of every width, is a command. -/
def decodeCmd {w : Nat} (word : BitVec (3 + w)) : Instr := decodeOp (cmdOpOf word) ⟨w, cmdDataOf word⟩

/-- A dispatch vector (30_encoding.md R77): the rows cover all 32 vectors. -/
def decodeSched (v : BitVec 5) : Instr :=
  let r := v.getLsbD 4
  let z := v.getLsbD 3
  let e := v.getLsbD 2
  let k := v.getLsbD 1
  let f := v.getLsbD 0
  if r then
    if z then
      if e then .finComplete k f
      else if k then .finCancel f
      else .emit f
    else
      if f then .finInterrupt e k
      else .wait e k
  else .hold z e k f

/-- The data bits of a 9-symbol pattern (30_encoding.md R70). -/
def frameDataOf (w : BitVec 9) : Byte := w.extractLsb' 1 8

/-- The ninth symbol of a 9-symbol pattern (30_encoding.md R70). -/
def frameParityOf (w : BitVec 9) : Bool := w.getLsbD 0

/-- The 9-symbol pattern of data bits and a ninth symbol (30_encoding.md R70). -/
def frameWordOf (d : Byte) (q : Bool) : BitVec 9 := d ++ BitVec.ofBool q

/-- Nine symbols (30_encoding.md R70): the pad's pattern is the row PADFRAME's, any other pattern with an even number
of ones a CHARFRAME. -/
def decodeFrame (w : BitVec 9) : Decoded :=
  if w = 0b001000001#9 then .instr .padFrame
  else if parityHolds (frameDataOf w) (frameParityOf w) then .instr (.charFrame (frameDataOf w) (frameParityOf w))
  else .rejected .oddParity

/-- Twelve symbols (30_encoding.md R71). -/
def decodeMarker (w : BitVec 12) : Decoded :=
  if w = 0b111111111111#12 then .instr .startMarker
  else if w = 0b000000000000#12 then .instr .stopMarker
  else .rejected .notMarker

/-- The decoder. -/
def decode : CodeWord → Decoded
  | .cmd _ word => .instr (decodeCmd word)
  | .sched v => .instr (decodeSched v)
  | .frame w => decodeFrame w
  | .marker w => decodeMarker w

/-- The instruction, where the decoder gives one. -/
def Decoded.toOption : Decoded → Option Instr
  | .instr i => some i
  | .rejected _ => none

/-- A dispatch vector from its five condition bits (30_encoding.md R77). -/
def vectorOf (r z e k f : Bool) : BitVec 5 :=
  BitVec.ofBool r ++ BitVec.ofBool z ++ BitVec.ofBool e ++ BitVec.ofBool k ++ BitVec.ofBool f

/-- The encoder, from the same tables. -/
def encode : Instr → CodeWord
  | .push d => .cmd d.width (cmdWordOf 0b001#3 d.bits)
  | .clear d => .cmd d.width (cmdWordOf 0b010#3 d.bits)
  | .start d => .cmd d.width (cmdWordOf 0b011#3 d.bits)
  | .cancel d => .cmd d.width (cmdWordOf 0b100#3 d.bits)
  | .op0 d => .cmd d.width (cmdWordOf 0b000#3 d.bits)
  | .op5 d => .cmd d.width (cmdWordOf 0b101#3 d.bits)
  | .op6 d => .cmd d.width (cmdWordOf 0b110#3 d.bits)
  | .op7 d => .cmd d.width (cmdWordOf 0b111#3 d.bits)
  | .hold z e k f => .sched (vectorOf false z e k f)
  | .finComplete k f => .sched (vectorOf true true true k f)
  | .finCancel f => .sched (vectorOf true true false true f)
  | .emit f => .sched (vectorOf true true false false f)
  | .finInterrupt e k => .sched (vectorOf true false e k true)
  | .wait e k => .sched (vectorOf true false e k false)
  | .charFrame d p => .frame (frameWordOf d p)
  | .startMarker => .marker 0b111111111111#12
  | .stopMarker => .marker 0b000000000000#12
  | .padFrame => .frame 0b001000001#9

/-- One row of spec/opcode_table.json that has a match and a mask. -/
structure Row where
  mnemonic : String
  format : Format
  matchBits : Nat
  maskBits : Nat
  deriving DecidableEq, Repr

/-- The word matches the row: `word & mask == match` (30_encoding.md R74, R77). -/
def Row.matches (r : Row) (w : Nat) : Bool := w &&& r.maskBits == r.matchBits

/-- The CMD row of an operation code, in a block with `CHAR_W = w`: the three bits above the data (30_encoding.md R74). -/
def cmdRow (w : Nat) (mnemonic : String) (op : Nat) : Row := ⟨mnemonic, .cmd, op * 2 ^ w, 7 * 2 ^ w⟩

/-- The CMD rows in a block with `CHAR_W = w` (30_encoding.md R74); with 16 those of spec/opcode_table.json. -/
def cmdRows (w : Nat) : List Row :=
  [cmdRow w "PUSH" 1, cmdRow w "CLEAR" 2, cmdRow w "START" 3, cmdRow w "CANCEL" 4, cmdRow w "OP0" 0, cmdRow w "OP5" 5,
   cmdRow w "OP6" 6, cmdRow w "OP7" 7]

/-- The SCHED rows of spec/opcode_table.json (30_encoding.md R77). -/
def schedRows : List Row :=
  [⟨"HOLD", .sched, 0b00000, 0b10000⟩, ⟨"FIN_COMPLETE", .sched, 0b11100, 0b11100⟩,
   ⟨"FIN_CANCEL", .sched, 0b11010, 0b11110⟩, ⟨"EMIT", .sched, 0b11000, 0b11110⟩,
   ⟨"FIN_INTERRUPT", .sched, 0b10001, 0b11001⟩, ⟨"WAIT", .sched, 0b10000, 0b11001⟩]

/-- The line rows of spec/opcode_table.json that have a match (30_encoding.md R70, R71; 40_encoder.md R104). -/
def lineRows : List Row :=
  [⟨"START_MARKER", .tf, 0xFFF, 0xFFF⟩, ⟨"STOP_MARKER", .tf, 0x000, 0xFFF⟩, ⟨"PADFRAME", .cf, 0x041, 0x1FF⟩]

/-- The format of a code word. -/
def CodeWord.format : CodeWord → Format
  | .cmd _ _ => .cmd
  | .sched _ => .sched
  | .frame _ => .cf
  | .marker _ => .tf

/-- The number that a code word's bits are, bit 0 the least significant. -/
def CodeWord.bits : CodeWord → Nat
  | .cmd _ word => word.toNat
  | .sched v => v.toNat
  | .frame w => w.toNat
  | .marker w => w.toNat

/-- The code word that `nbits` bits of a row of spec/opcode_table.json are: rows of up to 8 bits are dispatch vectors,
rows of up to 16 bits line formats, longer rows command words; a set bit above the format's width is no word. Sixteen
bits may be nine symbols or twelve: the two markers are taken as the markers (log entry 12). The table's command words
are those of `CHAR_W = 16` (log entry 4). -/
def CodeWord.ofTable (nbits w : Nat) : Option CodeWord :=
  if nbits ≤ 8 then
    if w < 2 ^ 5 then some (.sched (BitVec.ofNat 5 w)) else none
  else if nbits ≤ 16 then
    if w = 0xFFF ∨ w = 0 then some (.marker (BitVec.ofNat 12 w))
    else if w < 2 ^ 9 then some (.frame (BitVec.ofNat 9 w))
    else if w < 2 ^ 12 then some (.marker (BitVec.ofNat 12 w))
    else none
  else
    if w < 2 ^ 19 then some (.cmd 16 (BitVec.ofNat (3 + 16) w)) else none

/-- The instruction that the decoder reads from the word of a table row. -/
def decodeTableWord (nbits w : Nat) : Option Instr :=
  match CodeWord.ofTable nbits w with
  | some c => (decode c).toOption
  | none => none

end Sys2Proof
end

