-- ==== Sys2Proof/Machine/State.lean ====
section
/-! DEFINITION. The state of the block (10_state.md R20 to R29), the input ports of a cycle (R30, R31, R32, R35), the
reasons a model step can stop, and the state after reset (R37). -/

namespace Sys2Proof.Machine

/-- The values of STATE (10_state.md R20); the codes 5 to 7 are never taken (93_implementation_defined.md U6). -/
inductive Session where
  | idle | running | completed | cancelled | interrupted
  deriving DecidableEq, Repr

/-- The response codes (30_encoding.md R75); the codes 5 to 7 are never produced. -/
inductive RspCode where
  | ok | invalidInput | busy | overflow | illegalCmd
  deriving DecidableEq, Repr

/-- The stored cells of the message buffer by index, indices strictly rising; a cell that is not listed holds no
stored value (10_state.md R25; log entry 5). -/
abbrev Memory := List Host.Cell

/-- The input ports during one cycle (10_state.md R30, R31, R32, R35). -/
structure PortIn where
  /-- `rst`. -/
  rst : Bool
  /-- `cmd_valid`. -/
  cmdValid : Bool
  /-- `cmd_op`. -/
  cmdOp : BitVec 3
  /-- `cmd_data`, as the number on its lines; the port of a block has CHAR_W of them (00_scope.md R7; log entry 4). -/
  cmdData : Nat
  /-- `wait_fault`. -/
  waitFault : Bool
  /-- `act_err`. -/
  actErr : Bool
  deriving DecidableEq, Repr

/-- All input ports 0, as in a cycle that a script does not mention (30_encoding.md R79). -/
def PortIn.quiet : PortIn :=
  { rst := false, cmdValid := false, cmdOp := 0, cmdData := 0, waitFault := false, actErr := false }

/-- The machine: the nine registers of 10_state.md R20 to R28, then the model's own fields: the response of the cycle
just executed (R33, log entry 2) and the inputs of the cycles to come (log entry 1). -/
structure State where
  /-- STATE (R20). -/
  state : Session
  /-- CURSOR (R21). -/
  cursor : Nat
  /-- SLOTCNT (R22). -/
  slotcnt : Nat
  /-- CANCEL (R23). -/
  cancel : Bool
  /-- LEN (R24). -/
  len : Nat
  /-- MSG (R25). -/
  msg : Memory
  /-- ACT (R26). -/
  act : Symbol
  /-- ACT_STB (R27). -/
  actStb : Bool
  /-- ACT_WARN (R28). -/
  actWarn : Bool
  /-- `rsp_valid` of the cycle just executed (R33). -/
  rspValid : Bool
  /-- `rsp_code` of the cycle just executed (R33). -/
  rspCode : RspCode
  /-- The inputs of the next cycle and of the cycles after it; when the list is exhausted every port is 0. -/
  inputs : List PortIn
  deriving DecidableEq, Repr

/-- Why a model step can stop with a fault. The block itself has no fault (60_exceptions.md R193). -/
inductive Fault where
  /-- Raised by `memRead` and `memWrite` on a cell at or above MSG_MAX, which does not exist (20_memory.md R50, R62).
  Safe: no state that reset reaches makes such an access (log entry 6). -/
  | noSuchCell (j : Nat)
  deriving DecidableEq, Repr

/-- Why a model step can be refused. -/
inductive Refusal where
  /-- Raised by an arm of `exec` whose instruction has no meaning yet; no arm answers so. Safe. -/
  | notModelled (mnemonic : String)
  /-- Raised by `memRead` and `memWrite` on a size other than 1 cell, as 20_memory.md R55 asks; no instruction makes
  such an access. Safe (log entry 7). -/
  | accessSize (size : Nat)
  deriving DecidableEq, Repr

/-- What a meaning and a step answer. -/
abbrev Result := Host.Outcome State Fault Refusal

/-- The machine right after reset (10_state.md R37): every register at its reset value, no message cell written, no
response, no inputs placed. -/
def State.reset : State :=
  { state := .idle, cursor := 0, slotcnt := 0, cancel := false, len := 0, msg := [], act := false, actStb := false,
    actWarn := false, rspValid := false, rspCode := .ok, inputs := [] }

end Sys2Proof.Machine
end

