-- ==== Sys2Proof/Machine/Ops.lean ====
section
/-! DEFINITION. The shared operations: the message space (20_memory.md R50, R55), the response (00_scope.md R13), the
set-state event (43_output_driver.md R171), the symbol slot (42_scheduler.md R141), the session end that stands in the
place of taking an exception (60_exceptions.md R197), the begin of a session (41_commands.md R123), reset
(70_reset_and_hazards.md R220) and the actuator failure report (43_output_driver.md R176). -/

namespace Sys2Proof.Machine

/-- One outcome after another: a fault or a refusal stops. -/
def andThen {α β φ ρ : Type} (o : Host.Outcome α φ ρ) (g : α → Host.Outcome β φ ρ) : Host.Outcome β φ ρ :=
  match o with
  | .next a => g a
  | .fault r => .fault r
  | .refused r => .refused r

/-- The stored value of cell `j`, where one is listed. -/
def Memory.stored : Memory → Nat → Option Byte
  | [], _ => none
  | (a, v) :: m, j => if a = j then some v else Memory.stored m j

/-- The memory with the value `v` stored in cell `j`. -/
def Memory.store : Memory → Nat → Byte → Memory
  | [], j, v => [(j, v)]
  | (a, b) :: m, j, v =>
    if j < a then (j, v) :: (a, b) :: m
    else if j = a then (j, v) :: m
    else (a, b) :: Memory.store m j v

/-- The canonical form: indices strictly rising. An unlisted cell holds no stored value, so no entry equals it. -/
abbrev Memory.wf (m : Memory) : Prop := m.Pairwise fun a b => a.1 < b.1

/-- What cell `j` holds: its stored value, or a free value where nothing was stored (10_state.md R25). -/
def Memory.cell (m : Memory) (j : Nat) : Byte := (Memory.stored m j).getD (Config.unspecifiedCell j)

/-- `MemRead(j, size)` (00_scope.md R13, 20_memory.md R50, R55). -/
def memRead (p : Params) (j size : Nat) (s : State) : Host.Outcome Byte Fault Refusal :=
  if size = 1 then
    if j < p.msgMax then .next (Memory.cell s.msg j) else .fault (.noSuchCell j)
  else .refused (.accessSize size)

/-- `MemWrite(j, size, v)` (00_scope.md R13, 20_memory.md R50, R55). -/
def memWrite (p : Params) (j size : Nat) (v : Byte) (s : State) : Result :=
  if size = 1 then
    if j < p.msgMax then .next { s with msg := Memory.store s.msg j v } else .fault (.noSuchCell j)
  else .refused (.accessSize size)

/-- `respond(code)` (00_scope.md R13). -/
def State.respond (s : State) (c : RspCode) : State := { s with rspValid := true, rspCode := c }

/-- `emit(v)`, the set-state event (43_output_driver.md R171). -/
def State.emit (s : State) (v : Symbol) : State := { s with act := v, actStb := true }

/-- The cycle without a set-state event: `ACT_STB <- 0` (10_state.md R27). -/
def State.noEvent (s : State) : State := { s with actStb := false }

/-- The symbol `b` goes out and its slot begins (42_scheduler.md R141). -/
def State.sendSymbol (p : Params) (b : Symbol) (s : State) : State :=
  { s.emit b with cursor := s.cursor + 1, slotcnt := p.slotTicks - 1 }

/-- Terminal entry (60_exceptions.md R197): one OFF event, the outcome in STATE, the slot timer stopped; everything
else is left as it is. -/
def State.finish (s : State) (outcome : Session) : State := { s.emit false with state := outcome, slotcnt := 0 }

/-- The writes of an accepted START (41_commands.md R123, 10_state.md R38). -/
def State.beginSession (s : State) : State :=
  { s with state := .running, cursor := 0, slotcnt := 0, cancel := false, actWarn := false }

/-- The writes of a reset cycle (70_reset_and_hazards.md R220): the message cells are left unchanged. -/
def State.applyReset (s : State) : State :=
  { State.reset with msg := s.msg, inputs := s.inputs }

/-- ACTERR (43_output_driver.md R176): a report sets ACT_WARN, in every state, and wins over a clear. -/
def State.noteActErr (s : State) (actErr : Bool) : State := { s with actWarn := s.actWarn || actErr }

/-- The input ports of the cycle that the next step executes; all 0 when no more inputs are listed
(30_encoding.md R79). -/
def State.ports (s : State) : PortIn := s.inputs.headD PortIn.quiet

/-- The cycle's inputs are taken off the list, and the response ports are 0 until a command responds
(10_state.md R33). -/
def State.beginCycle (s : State) : State :=
  { s with inputs := s.inputs.tail, rspValid := false, rspCode := .ok }

end Sys2Proof.Machine
end

