-- ==== Sys2Proof/Machine/Assembler.lean ====
section
/-! DEFINITION. The frame assembler (40_encoder.md R104 to R108; 30_encoding.md R71, R72): pure functions of LEN and
MSG (R109). -/

namespace Sys2Proof.Machine

/-- SEQ_LEN (40_encoder.md R107). -/
def seqLen (s : State) : Nat := 24 + 9 * (s.len + 1)

/-- CHAR_AT (40_encoder.md R104): character `j` of the framed list, the pad at LEN. Beyond LEN, where it is never
evaluated and may have any value (93_implementation_defined.md U8), it answers the pad: DESIGN CHOICE, log entry 9. -/
def charAt (s : State) (j : Nat) : Byte := if j < s.len then Memory.cell s.msg j else Config.pad

/-- ASM_CHARS (40_encoder.md R104): the message, then one pad. -/
def asmChars (s : State) : List Byte := (List.range (s.len + 1)).map (charAt s)

/-- ASM_BODY (40_encoder.md R105): the Character Frames in order, with no gap. -/
def asmBody (s : State) : List Symbol := (asmChars s).flatMap encFrame

/-- The start marker: twelve 1 symbols (40_encoder.md R106). -/
def startMarkerSymbols : List Symbol := List.replicate Config.markerLen true

/-- The stop marker: twelve 0 symbols (40_encoder.md R106). -/
def stopMarkerSymbols : List Symbol := List.replicate Config.markerLen false

/-- ASM_FRAME (40_encoder.md R106): the Transmission Frame. -/
def asmFrame (s : State) : List Symbol := startMarkerSymbols ++ asmBody s ++ stopMarkerSymbols

/-- The index in the body of the sequence index `i` (40_encoder.md R108): the character index. -/
def charIndex (i : Nat) : Nat := (i - Config.markerLen) / Config.frameLen

/-- The symbol index in its frame of the sequence index `i` (40_encoder.md R108). -/
def frameIndex (i : Nat) : Nat := (i - Config.markerLen) % Config.frameLen

/-- The character of the frame with index `j`, read through the message space (40_encoder.md R104, R108); beyond LEN the
pad, as `charAt` (93_implementation_defined.md U8; DESIGN CHOICE, log entry 9). -/
def fetchChar (p : Params) (s : State) (j : Nat) : Host.Outcome Byte Fault Refusal :=
  if j < s.len then memRead p j 1 s else .next Config.pad

/-- SEQ_BIT(i) (40_encoder.md R108). It answers 0 at and above SEQ_LEN, where it is never evaluated (R108,
93_implementation_defined.md U8; log entry 9). -/
def seqBit (p : Params) (s : State) (i : Nat) : Host.Outcome Symbol Fault Refusal :=
  if i < Config.markerLen then .next true
  else if i < Config.markerLen + Config.frameLen * (s.len + 1) then
    andThen (fetchChar p s (charIndex i)) fun c => .next (frameBit c (frameIndex i))
  else .next false

/-- The symbols on the line around the sequence index `i`, as a word of their format (20_memory.md R51): the marker or
the Character Frame in which the index stands; at and above SEQ_LEN, where `seqBit` answers 0, the stop marker (log
entry 9). -/
def lineWordAt (s : State) (i : Nat) : CodeWord :=
  if i < Config.markerLen then .marker 0b111111111111#12
  else if i < Config.markerLen + Config.frameLen * (s.len + 1) then
    .frame (frameWordOf (charAt s (charIndex i)) (encPar (charAt s (charIndex i))))
  else .marker 0b000000000000#12

end Sys2Proof.Machine
end

