-- ==== Sys2Proof/Machine/Flags.lean ====
section
/-! DEFINITION. What the block computes from its registers in every cycle: the condition bits and the dispatch vector
(30_encoding.md R77), the codes of STATE and of the responses (R75, R76), the output ports (10_state.md R32, R33, R34)
and the conditions of 60_exceptions.md R185. -/

namespace Sys2Proof.Machine

/-- Bit `r`: `STATE == Running` (30_encoding.md R77). -/
def flagR (s : State) : Bool := s.state == .running

/-- Bit `z`: `SLOTCNT == 0` (R77). -/
def flagZ (s : State) : Bool := s.slotcnt == 0

/-- Bit `e`: `CURSOR == L`, for a sequence of length `L` (R77, 40_encoder.md R114). -/
def flagE (L : Nat) (s : State) : Bool := s.cursor == L

/-- Bit `k`: `CANCEL == 1` (R77); the cancellation-flag monitor (42_scheduler.md R148). -/
def flagK (s : State) : Bool := s.cancel

/-- The dispatch vector of a pre-state and `wait_fault` (R77), for a sequence of length `L`. -/
def dispatchVector (L : Nat) (s : State) (waitFault : Bool) : BitVec 5 :=
  vectorOf (flagR s) (flagZ s) (flagE L s) (flagK s) waitFault

/-- The code of STATE (30_encoding.md R76). -/
def Session.code : Session → BitVec 3
  | .idle => 0
  | .running => 1
  | .completed => 2
  | .cancelled => 3
  | .interrupted => 4

/-- STATE is terminal (00_scope.md section 7, 10_state.md R34). -/
def Session.terminal : Session → Bool
  | .idle | .running => false
  | .completed | .cancelled | .interrupted => true

/-- The response code (30_encoding.md R75). -/
def RspCode.code : RspCode → BitVec 3
  | .ok => 0
  | .invalidInput => 1
  | .busy => 2
  | .overflow => 3
  | .illegalCmd => 4

/-- The response of each command by state (41_commands.md R127). -/
def commandResponse (p : Params) (op : BitVec 3) (s : State) : RspCode :=
  if op = 0b001#3 then
    if s.state = .running then .busy else if s.len = p.msgMax then .overflow else .ok
  else if op = 0b010#3 then
    if s.state = .running then .busy else .ok
  else if op = 0b011#3 then
    if s.state = .running then .busy else if s.len = 0 then .invalidInput else .ok
  else if op = 0b100#3 then .ok
  else .illegalCmd

/-- `rsp_valid` (10_state.md R33), from the inputs of the cycle. -/
def rspValidPort (i : PortIn) : Bool := i.cmdValid && !i.rst

/-- `rsp_code` (10_state.md R33), from the pre-state and the inputs of the cycle: 0 when there is no response. -/
def rspCodePort (p : Params) (s : State) (i : PortIn) : RspCode :=
  if rspValidPort i then commandResponse p i.cmdOp s else .ok

/-- The output ports during a cycle (10_state.md section 2). -/
structure PortOut (p : Params) where
  rspValid : Bool
  rspCode : BitVec 3
  actOn : Bool
  actStb : Bool
  state : BitVec 3
  busy : Bool
  done : Bool
  cancelFlag : Bool
  actWarn : Bool
  len : BitVec p.lenW
  cursor : BitVec p.curW
  deriving DecidableEq, Repr

/-- The output ports of the cycle that the next step executes: the response from the pre-state and the inputs (R33),
everything else from the registers alone (R32, R34). -/
def outputs (p : Params) (s : State) : PortOut p :=
  { rspValid := rspValidPort s.ports
    rspCode := (rspCodePort p s s.ports).code
    actOn := s.act
    actStb := s.actStb
    state := s.state.code
    busy := s.state == .running
    done := s.state.terminal
    cancelFlag := s.cancel
    actWarn := s.actWarn
    len := BitVec.ofNat p.lenW s.len
    cursor := BitVec.ofNat p.curW s.cursor }

/-- The conditions of the block (60_exceptions.md R185, the complete list). -/
inductive Condition where
  | invalidInput | busy | overflow | illegalCmd | actuatorError | interrupted | cancelled
  deriving DecidableEq, Repr

/-- The synchronous condition that a response reports (60_exceptions.md R185). -/
def RspCode.condition : RspCode → List Condition
  | .ok => []
  | .invalidInput => [.invalidInput]
  | .busy => [.busy]
  | .overflow => [.overflow]
  | .illegalCmd => [.illegalCmd]

/-- The conditions raised in the cycle that the next step executes (60_exceptions.md R185, causes in R186 to R192); a
reset cycle raises none (R196). -/
def conditionsRaised (p : Params) (s : State) : List Condition :=
  if s.ports.rst then []
  else
    (rspCodePort p s s.ports).condition ++
    (if s.ports.actErr then [.actuatorError] else []) ++
    (if s.state = .running ∧ s.slotcnt ≠ 0 ∧ s.ports.waitFault = true then [.interrupted] else []) ++
    (if s.state = .running ∧ s.slotcnt = 0 ∧ s.cursor ≠ seqLen s ∧ s.cancel = true then [.cancelled] else [])

end Sys2Proof.Machine
end

