-- ==== Sys2Proof/Machine/Cycle.lean ====
section
/-! DEFINITION. One clock cycle (00_scope.md R10; 41_commands.md R120, R126; 42_scheduler.md R140, R154;
70_reset_and_hazards.md R220), and where a cycle takes its instructions from: the command port and the dispatch
vector. -/

namespace Sys2Proof.Machine

/-- The character code on the port `cmd_data` of a block with the parameters `p`: CHAR_W bits (10_state.md R31). -/
def PortIn.code (p : Params) (i : PortIn) : BitVec p.charW := BitVec.ofNat p.charW i.cmdData

/-- The word on the command port, CHAR_W + 3 bits (30_encoding.md R74). -/
def PortIn.commandWord (p : Params) (i : PortIn) : BitVec (3 + p.charW) := cmdWordOf i.cmdOp (i.code p)

/-- The command of a cycle: the decoded word of the command port, where `cmd_valid` is 1 (41_commands.md R120, R126). -/
def fetchCommand (p : Params) (i : PortIn) : Option Instr :=
  if i.cmdValid then some (decodeCmd (i.commandWord p)) else none

/-- The scheduler operation of a cycle: the decoded dispatch vector of the pre-state, for a sequence of length `L`
(42_scheduler.md R140, 30_encoding.md R77). -/
def fetchOp (L : Nat) (s : State) (i : PortIn) : Instr := decodeSched (dispatchVector L s i.waitFault)

/-- The command part of a cycle. -/
def commandPart (ex : Instr → State → Result) (c : Option Instr) (s : State) : Result :=
  match c with
  | some i => ex i s
  | none => .next s

/-- One clock cycle of a block with the parameters `p`, with the meanings `ex` and a sequence of length `L`. In a reset
cycle nothing else happens (70_reset_and_hazards.md R220). Else the command and the scheduler operation, both selected
from the pre-state, are carried out; they write different registers and the operation reads none that the command writes
(42_scheduler.md R154; log entry 14), so that each of them sees the pre-state; then the actuator's report is noted, which
wins over a clear (43_output_driver.md R176). -/
def cycle (p : Params) (ex : Instr → State → Result) (L : Nat) (s : State) : Result :=
  if s.ports.rst then .next s.beginCycle.applyReset
  else
    andThen (commandPart ex (fetchCommand p s.ports) s.beginCycle) fun t =>
      andThen (ex (fetchOp L s s.ports) t) fun u => .next (u.noteActErr s.ports.actErr)

/-- The inputs of the next cycle replaced. -/
def State.withPorts (s : State) (i : PortIn) : State := { s with inputs := i :: s.inputs.tail }

/-- A command word on the command port of the next cycle (10_state.md R31). -/
def State.placeCommand {w : Nat} (s : State) (word : BitVec (3 + w)) : State :=
  s.withPorts { s.ports with
    rst := false, cmdValid := true, cmdOp := cmdOpOf word, cmdData := (cmdDataOf word).toNat }

/-- No command and no reset in the next cycle, and `wait_fault` as given. -/
def State.placeQuiet (s : State) (waitFault : Bool) : State :=
  s.withPorts { s.ports with rst := false, cmdValid := false, waitFault := waitFault }

/-- Registers and inputs such that the next cycle computes the dispatch vector `v` (30_encoding.md R77). -/
def State.placeVector (s : State) (v : BitVec 5) : State :=
  { s.placeQuiet (v.getLsbD 0) with
    state := if v.getLsbD 4 then .running else if s.state = .running then .idle else s.state
    slotcnt := if v.getLsbD 3 then 0 else if s.slotcnt = 0 then 1 else s.slotcnt
    cursor := if v.getLsbD 2 then seqLen s else if s.cursor = seqLen s then 0 else s.cursor
    cancel := v.getLsbD 1 }

/-- A running session whose next symbol is the one at index `i`. -/
def State.placeCursor (s : State) (i : Nat) : State :=
  { s.placeQuiet s.ports.waitFault with state := .running, slotcnt := 0, cancel := false, cursor := i }

/-- The character `c` as the first of the message. -/
def State.placeChar (s : State) (c : Byte) : State :=
  { s with msg := Memory.store s.msg 0 c, len := max 1 s.len }

/-- The word `c` placed where the next cycle takes it from: on the command port, in the registers of the dispatch
vector, or in the message with the cursor at its first symbol. -/
def State.place (s : State) (c : CodeWord) : State :=
  match decode c with
  | .rejected _ => s
  | .instr i =>
    match c with
    | .cmd _ word => s.placeCommand word
    | .sched v => s.placeVector v
    | .frame w =>
      if i = .padFrame then s.placeCursor (Config.markerLen + Config.frameLen * s.len)
      else (s.placeChar (frameDataOf w)).placeCursor Config.markerLen
    | .marker _ =>
      if i = .startMarker then s.placeCursor 0 else s.placeCursor (seqLen s - Config.markerLen)

end Sys2Proof.Machine
end

