-- ==== Sys2Proof/Machine/Commands.lean ====
section
/-! DEFINITION. The host commands (41_commands.md R121 to R125): each command's writes and its response, for every
parameter, and the meaning that `exec` calls, at the reference configuration (log entry 3). -/

namespace Sys2Proof.Machine

/-- PUSH (41_commands.md R121). -/
def pushAt (p : Params) (data : CharCode) (s : State) : Result :=
  if s.state = .running then .next (s.respond .busy)
  else if s.len = p.msgMax then .next (s.respond .overflow)
  else andThen (memWrite p s.len 1 (encCode data.bits) s) fun t => .next ({ t with len := s.len + 1 }.respond .ok)

/-- CLEAR (41_commands.md R122). -/
def clearOp (s : State) : Result :=
  if s.state = .running then .next (s.respond .busy)
  else .next ({ s with len := 0 }.respond .ok)

/-- START (41_commands.md R123). -/
def startOp (s : State) : Result :=
  if s.state = .running then .next (s.respond .busy)
  else if s.len = 0 then .next (s.respond .invalidInput)
  else .next (s.beginSession.respond .ok)

/-- CANCEL (41_commands.md R124). -/
def cancelOp (s : State) : Result := .next ({ s with cancel := true }.respond .ok)

/-- A reserved operation code (41_commands.md R125). -/
def reservedOp (s : State) : Result := .next (s.respond .illegalCmd)

/-- PUSH (R121). -/
def execPush (data : CharCode) (s : State) : Result := pushAt Config.reference data s

/-- CLEAR (R122); the data is ignored. -/
def execClear (_data : CharCode) (s : State) : Result := clearOp s

/-- START (R123); the data is ignored. -/
def execStart (_data : CharCode) (s : State) : Result := startOp s

/-- CANCEL (R124); the data is ignored. -/
def execCancel (_data : CharCode) (s : State) : Result := cancelOp s

/-- OP0 (R125); the data is ignored. -/
def execOp0 (_data : CharCode) (s : State) : Result := reservedOp s

/-- OP5 (R125); the data is ignored. -/
def execOp5 (_data : CharCode) (s : State) : Result := reservedOp s

/-- OP6 (R125); the data is ignored. -/
def execOp6 (_data : CharCode) (s : State) : Result := reservedOp s

/-- OP7 (R125); the data is ignored. -/
def execOp7 (_data : CharCode) (s : State) : Result := reservedOp s

end Sys2Proof.Machine
end

