-- ==== Sys2Proof/Machine/Line.lean ====
section
/-! DEFINITION. The line formats as instructions (30_encoding.md R70, R71): the symbol of the format at which the
cursor stands goes out on the line and its slot begins (20_memory.md R51, 42_scheduler.md R141, 43_output_driver.md
R170). DEDUCED, log entry 10. -/

namespace Sys2Proof.Machine

/-- The symbol of the nine-symbol pattern `d`, `q` at which the cursor stands (40_encoder.md R103, R108). -/
def frameSymbolAt (p : Params) (d : Byte) (q : Symbol) (s : State) : Result :=
  .next (s.sendSymbol p (cfSymbol d q (frameIndex s.cursor)))

/-- A symbol of the marker whose symbols are all `v` (40_encoder.md R106). -/
def markerSymbolAt (p : Params) (v : Symbol) (s : State) : Result := .next (s.sendSymbol p v)

/-- CHARFRAME (40_encoder.md R103). -/
def execCharFrame (d : Byte) (p : Bool) (s : State) : Result := frameSymbolAt Config.reference d p s

/-- START_MARKER (40_encoder.md R106). -/
def execStartMarker (s : State) : Result := markerSymbolAt Config.reference true s

/-- STOP_MARKER (40_encoder.md R106). -/
def execStopMarker (s : State) : Result := markerSymbolAt Config.reference false s

/-- PADFRAME (40_encoder.md R104). -/
def execPadFrame (s : State) : Result := frameSymbolAt Config.reference Config.pad (encPar Config.pad) s

end Sys2Proof.Machine
end

