-- ==== Sys2Proof/Machine/Scheduler.lean ====
section
/-! DEFINITION. The scheduler operations (42_scheduler.md R141 to R146), as the pseudocode of each rule; which one a
cycle executes is the dispatch vector's (30_encoding.md R77; log entry 13). -/

namespace Sys2Proof.Machine

/-- EMIT (42_scheduler.md R141) of a sequence whose symbol at the cursor is the outcome `b` (40_encoder.md R114). -/
def emitAt (p : Params) (b : Host.Outcome Symbol Fault Refusal) (s : State) : Result :=
  andThen b fun v => .next (s.sendSymbol p v)

/-- WAIT (42_scheduler.md R142). -/
def waitOp (s : State) : Result := .next { s.noEvent with slotcnt := s.slotcnt - 1 }

/-- FIN_COMPLETE, FIN_CANCEL and FIN_INTERRUPT (42_scheduler.md R143, R144, R145): terminal entry with the outcome. -/
def finOp (outcome : Session) (s : State) : Result := .next (s.finish outcome)

/-- HOLD (42_scheduler.md R146). -/
def holdOp (s : State) : Result := .next s.noEvent

/-- HOLD (R146); the operands are don't-care bits of the vector. -/
def execHold (_z _e _k _f : Bool) (s : State) : Result := holdOp s

/-- FIN_COMPLETE (R143); the operands are don't-care bits of the vector. -/
def execFinComplete (_k _f : Bool) (s : State) : Result := finOp .completed s

/-- FIN_CANCEL (R144); the operand is a don't-care bit of the vector. -/
def execFinCancel (_f : Bool) (s : State) : Result := finOp .cancelled s

/-- EMIT (R141) of SEQ_BIT(CURSOR); the operand is a don't-care bit of the vector. -/
def execEmit (_f : Bool) (s : State) : Result := emitAt Config.reference (seqBit Config.reference s s.cursor) s

/-- FIN_INTERRUPT (R145); the operands are don't-care bits of the vector. -/
def execFinInterrupt (_e _k : Bool) (s : State) : Result := finOp .interrupted s

/-- WAIT (R142); the operands are don't-care bits of the vector. -/
def execWait (_e _k : Bool) (s : State) : Result := waitOp s

end Sys2Proof.Machine
end

