-- ==== Sys2Proof/Machine/Dispatch.lean ====
section
/-! DEFINITION. The meaning of every instruction, one arm per constructor. -/

namespace Sys2Proof.Machine

def exec (i : Instr) (s : State) : Host.Outcome State Fault Refusal :=
  match i with
  | .push data => Sys2Proof.Machine.execPush data s
  | .clear data => Sys2Proof.Machine.execClear data s
  | .start data => Sys2Proof.Machine.execStart data s
  | .cancel data => Sys2Proof.Machine.execCancel data s
  | .op0 data => Sys2Proof.Machine.execOp0 data s
  | .op5 data => Sys2Proof.Machine.execOp5 data s
  | .op6 data => Sys2Proof.Machine.execOp6 data s
  | .op7 data => Sys2Proof.Machine.execOp7 data s
  | .hold z e k f => Sys2Proof.Machine.execHold z e k f s
  | .finComplete k f => Sys2Proof.Machine.execFinComplete k f s
  | .finCancel f => Sys2Proof.Machine.execFinCancel f s
  | .emit f => Sys2Proof.Machine.execEmit f s
  | .finInterrupt e k => Sys2Proof.Machine.execFinInterrupt e k s
  | .wait e k => Sys2Proof.Machine.execWait e k s
  | .charFrame d p => Sys2Proof.Machine.execCharFrame d p s
  | .startMarker => Sys2Proof.Machine.execStartMarker s
  | .stopMarker => Sys2Proof.Machine.execStopMarker s
  | .padFrame => Sys2Proof.Machine.execPadFrame s

end Sys2Proof.Machine
end

