-- ==== Sys2Proof/Machine/Step.lean ====
section
/-! DEFINITION. One step of the machine is one clock cycle of the block in the reference configuration (00_scope.md R1,
R10), and where a word must stand for the next step to run it. -/

namespace Sys2Proof.Machine

/-- One clock cycle (00_scope.md R10): the command, the scheduler operation and the actuator's report. -/
def step (s : State) : Host.Outcome State Fault Refusal :=
  cycle Config.reference exec (seqLen s) s

/-- The word `w` of a table row of `nbits` bits placed where the next step takes its instructions from (log entry
16). -/
def State.withFetchWord (s : State) (nbits w : Nat) : State :=
  match CodeWord.ofTable nbits w with
  | some c => s.place c
  | none => s

end Sys2Proof.Machine
end

