-- ==== Sys2Proof/Machine/Script.lean ====
section
/-! DEFINITION. The command scripts of 30_encoding.md R79 and the pseudo-commands of R80, as lists of input ports. -/

namespace Sys2Proof.Machine

/-- What a script line drives (30_encoding.md R79). -/
inductive ScriptOp where
  /-- PUSH of a code, as the number that the line writes. -/
  | push (data : Nat)
  | clear | start | cancel
  /-- A reserved code by its number (`OP0`, `OP5`, `OP6`, `OP7`). -/
  | op (code : BitVec 3)
  | waitFault | actErr | rst
  deriving DecidableEq, Repr

/-- One line `@cycle op` (30_encoding.md R79). -/
structure ScriptLine where
  at_ : Nat
  op : ScriptOp
  deriving DecidableEq, Repr

/-- The command `op` with the data `d` on the command port. -/
def PortIn.command (i : PortIn) (op : BitVec 3) (d : Nat) : PortIn :=
  { i with cmdValid := true, cmdOp := op, cmdData := d }

/-- The ports of a cycle with one more line applied (30_encoding.md R79); `cmd_data` is 0 where R79 leaves it open
(log entry 18). -/
def PortIn.drive (i : PortIn) : ScriptOp → PortIn
  | .push d => i.command 0b001#3 d
  | .clear => i.command 0b010#3 0
  | .start => i.command 0b011#3 0
  | .cancel => i.command 0b100#3 0
  | .op c => i.command c 0
  | .waitFault => { i with waitFault := true }
  | .actErr => { i with actErr := true }
  | .rst => { i with rst := true }

/-- The ports of cycle `n` under a script: every line of that cycle applied to quiet ports (30_encoding.md R79). -/
def scriptPorts (lines : List ScriptLine) (n : Nat) : PortIn :=
  lines.foldl (fun i l => if l.at_ = n then i.drive l.op else i) PortIn.quiet

/-- The inputs of the first `n` cycles under a script. -/
def scriptInputs (lines : List ScriptLine) (n : Nat) : List PortIn := (List.range n).map (scriptPorts lines)

/-- `@n PUSHS text` (30_encoding.md R80). -/
def pushsLines : Nat → List Nat → List ScriptLine
  | _, [] => []
  | n, c :: cs => ⟨n, .push c⟩ :: pushsLines (n + 1) cs

/-- `@n SEND text` (30_encoding.md R80): CLEAR, one PUSH per character, START. -/
def sendLines (n : Nat) (text : List Nat) : List ScriptLine :=
  ⟨n, .clear⟩ :: pushsLines (n + 1) text ++ [⟨n + text.length + 1, .start⟩]

end Sys2Proof.Machine
end

