-- ==== Sys2Proof/Machine/Generic.lean ====
section
/-! DEFINITION. The block for every parameter, and the scheduler over an arbitrary sequence (40_encoder.md R114): the
same operations as `exec` calls, with the parameters and the sequence as arguments. `step` is the instance at the
reference configuration and the block's own sequence. START is that of 41_commands.md R123 over every sequence, its
`LEN == 0` test with it: DESIGN CHOICE, log entry 21. -/

namespace Sys2Proof.Machine

/-- The symbols of a sequence by index. -/
abbrev Source := Nat → Host.Outcome Symbol Fault Refusal

/-- The meanings for the parameters `p` and the sequence `B` (40_encoder.md R114). START is `startOp` over every
sequence: DESIGN CHOICE, log entry 21. -/
def execGen (p : Params) (B : Source) (i : Instr) (s : State) : Result :=
  match i with
  | .push data => pushAt p data s
  | .clear _ => clearOp s
  | .start _ => startOp s
  | .cancel _ => cancelOp s
  | .op0 _ | .op5 _ | .op6 _ | .op7 _ => reservedOp s
  | .hold _ _ _ _ => holdOp s
  | .finComplete _ _ => finOp .completed s
  | .finCancel _ => finOp .cancelled s
  | .emit _ => emitAt p (B s.cursor) s
  | .finInterrupt _ _ => finOp .interrupted s
  | .wait _ _ => waitOp s
  | .charFrame d q => frameSymbolAt p d q s
  | .startMarker => markerSymbolAt p true s
  | .stopMarker => markerSymbolAt p false s
  | .padFrame => frameSymbolAt p Config.pad (encPar Config.pad) s

/-- One cycle of the block with the parameters `p`: the sequence is SEQ_LEN, SEQ_BIT of the pre-state. -/
def stepAt (p : Params) (s : State) : Result := cycle p (execGen p (seqBit p s)) (seqLen s) s

/-- One cycle with the generic scheduler on the sequence `(L, B)` (40_encoder.md R114). The spec gives no generic START:
this one keeps the test of 41_commands.md R123 and answers InvalidInput where LEN is 0, whatever `L` is, so that the runs
of 95_test_vectors.md V34 and V75, which start a session on `(L, B)` after reset, need LEN at least 1 placed first.
DESIGN CHOICE, log entry 21. -/
def stepGeneric (p : Params) (L : Nat) (B : Nat → Symbol) (s : State) : Result :=
  cycle p (execGen p fun i => .next (B i)) L s

/-- `n` cycles with the step `f`. -/
def runFor (f : State → Result) : Nat → State → Result
  | 0, s => .next s
  | n + 1, s => andThen (f s) (runFor f n)

/-- The set-state event of the cycle that led to this state (00_scope.md R14, 43_output_driver.md R171). -/
def eventOf (s : State) : List Symbol := if s.actStb then [s.act] else []

/-- The actuator trace of `n` cycles with the step `f` (00_scope.md R14): one entry for each set-state event. -/
def traceFor (f : State → Result) : Nat → State → List Symbol
  | 0, _ => []
  | n + 1, s =>
    match f s with
    | .next t => eventOf t ++ traceFor f n t
    | .fault _ => []
    | .refused _ => []

end Sys2Proof.Machine
end

