-- ==== Sys2Proof/Safety.lean ====
section
/-! DEFINITION. What counts as a good state and a good run: the invariants of 10_state.md R36, the postcondition of a
session (43_output_driver.md R175), and the reference decoder of 40_encoder.md R113, which is no part of the block. -/

namespace Sys2Proof.Machine

/-- The invariants of 10_state.md R36, and that the message buffer is in its canonical form with existing cells only
(20_memory.md R50) and every live cell written (R25). R36 (a) is the type of STATE; R36 (g) is stated at the cycle of
FIN_COMPLETE. -/
structure Inv (p : Params) (s : State) : Prop where
  /-- R36 (b). -/
  off_outside : s.state ≠ .running → s.act = false ∧ s.slotcnt = 0
  /-- R36 (c). -/
  running_bounds : s.state = .running → 1 ≤ s.len ∧ s.cursor ≤ seqLen s
  /-- R36 (d). -/
  wait_after_emit : s.state = .running → s.slotcnt ≠ 0 → 1 ≤ s.cursor
  /-- R36 (e), LEN. -/
  len_le : s.len ≤ p.msgMax
  /-- R36 (e), SLOTCNT. -/
  slotcnt_le : s.slotcnt ≤ p.slotTicks - 1
  /-- CURSOR stays in its range in every state (10_state.md R21; 00_scope.md R9). -/
  cursor_le : s.cursor ≤ p.lMax
  /-- R36 (f). -/
  idle_cursor : s.state = .idle → s.cursor = 0
  /-- R36 (h). -/
  cancelled_flag : s.state = .cancelled → s.cancel = true
  /-- The canonical form of the message buffer. -/
  msg_wf : Memory.wf s.msg
  /-- Every listed cell exists (20_memory.md R50). -/
  msg_bound : ∀ c ∈ s.msg, c.1 < p.msgMax
  /-- Every live cell has been written (10_state.md R25). -/
  live_written : ∀ j < s.len, (Memory.stored s.msg j).isSome

/-- What the registers say of the session in progress: the level is the last symbol sent (43_output_driver.md R170),
no cancellation is pending before the first symbol (41_commands.md R123, 42_scheduler.md R152), and a session that has
ended has sent a symbol (42_scheduler.md R151). -/
structure SessionInv (p : Params) (s : State) : Prop where
  /-- The actuator carries the symbol before the cursor. -/
  level : s.state = .running → 1 ≤ s.cursor → seqBit p s (s.cursor - 1) = .next s.act
  /-- Before the first symbol the actuator is OFF and no cancellation is pending. -/
  fresh : s.state = .running → s.cursor = 0 → s.act = false ∧ s.cancel = false
  /-- A terminal state comes after at least one symbol. -/
  ended : s.state.terminal = true → 1 ≤ s.cursor

/-- Two states that a host and an actuator owner cannot tell apart: all registers, ports and inputs agree, and so do
the live cells of the message buffer (10_state.md R25, 20_memory.md R50); the other cells may differ. -/
structure SameVisible (s t : State) : Prop where
  state_eq : s.state = t.state
  cursor_eq : s.cursor = t.cursor
  slotcnt_eq : s.slotcnt = t.slotcnt
  cancel_eq : s.cancel = t.cancel
  len_eq : s.len = t.len
  act_eq : s.act = t.act
  actStb_eq : s.actStb = t.actStb
  actWarn_eq : s.actWarn = t.actWarn
  rspValid_eq : s.rspValid = t.rspValid
  rspCode_eq : s.rspCode = t.rspCode
  inputs_eq : s.inputs = t.inputs
  cells_eq : ∀ j < s.len, Memory.cell s.msg j = Memory.cell t.msg j

/-- A register's post-value from its pre-value and the two values that the command and the scheduler operation of the
cycle give it: the one that was written (42_scheduler.md R154). -/
def written {α : Type} [DecidableEq α] (pre byCommand byOperation : α) : α :=
  if byCommand = pre then byOperation else byCommand

/-- The union of the writes of a command and of a scheduler operation that both started from `pre` (42_scheduler.md
R154, 00_scope.md R10). -/
def mergeWrites (pre byCommand byOperation : State) : State :=
  { state := written pre.state byCommand.state byOperation.state
    cursor := written pre.cursor byCommand.cursor byOperation.cursor
    slotcnt := written pre.slotcnt byCommand.slotcnt byOperation.slotcnt
    cancel := written pre.cancel byCommand.cancel byOperation.cancel
    len := written pre.len byCommand.len byOperation.len
    msg := written pre.msg byCommand.msg byOperation.msg
    act := written pre.act byCommand.act byOperation.act
    actStb := written pre.actStb byCommand.actStb byOperation.actStb
    actWarn := written pre.actWarn byCommand.actWarn byOperation.actWarn
    rspValid := byCommand.rspValid
    rspCode := byCommand.rspCode
    inputs := pre.inputs }

/-- The CANCEL command is presented (41_commands.md R124). -/
def PortIn.presentsCancel (i : PortIn) : Bool := i.cmdValid && i.cmdOp == 0b100#3

/-- The START command is presented (41_commands.md R123). -/
def PortIn.presentsStart (i : PortIn) : Bool := i.cmdValid && i.cmdOp == 0b011#3

/-- The input ports of cycle `n`, counted from the next one. -/
def State.portsAt (s : State) (n : Nat) : PortIn := s.inputs.getD n PortIn.quiet

/-- The number that eight symbols are, most significant first (40_encoder.md R113). -/
def byteOfSymbols (bits : List Symbol) : Byte := bits.foldl (fun c b => (c <<< 1) ||| (BitVec.ofBool b).setWidth 8) 0

/-- The reference decoder of a body: groups of nine symbols, each with its parity checked (40_encoder.md R113). -/
def decodeBody : Nat → List Symbol → Option (List Byte)
  | 0, bits => if bits = [] then some [] else none
  | n + 1, bits =>
    let c := byteOfSymbols (bits.take 8)
    if (bits.drop 8).head? = some (encPar c) then (decodeBody n (bits.drop 9)).map (c :: ·) else none

/-- The reference decoder (40_encoder.md R113): the markers stripped, the body decoded. -/
def referenceDecode (bits : List Symbol) : Option (List Byte) :=
  decodeBody ((bits.length - 24) / 9) ((bits.drop 12).take (bits.length - 24))

end Sys2Proof.Machine
end

