-- ==== Sys2Proof/Certificates/Slice0/Obligations.lean ====
section
/-! DEFINITION. The statements for the provers. `exec` and `step` run the configuration of 00_scope.md R1; `execGen`,
`stepAt` and `stepGeneric` are the same operations for every parameter (log entries 3, 4). -/

section TransmitterStatements

open Sys2Proof Sys2Proof.Machine

/-! ### Encodings -/

/-- Every well-formed instruction is read back from its word: no bit of an encoding is dropped (30_encoding.md R70,
R71, R74, R77). Which nine-symbol patterns are CHARFRAME and which PADFRAME is log entry 11. -/
def Obligations.DecodeOfEncodeIsTheInstruction : Prop :=
  ∀ i : Instr, i.wf = true → decode (encode i) = .instr i

/-- Every word that the decoder accepts is the word of the instruction it gives, and that instruction is
well-formed (30_encoding.md R70, R71, R74, R77). -/
def Obligations.EncodeOfDecodeIsTheWord : Prop :=
  ∀ (c : CodeWord) (i : Instr), decode c = .instr i → encode i = c ∧ i.wf = true

/-- 30_encoding.md R77: the bits of the dispatch vector; the six rows of the table are disjoint and cover all 32
vectors, and the decoder gives the row that matches. -/
def Obligations.SchedulerRowsDisjointAndCovering : Prop :=
  (∀ (L : Nat) (s : State) (w : Bool),
    ((dispatchVector L s w).getLsbD 4 = true ↔ s.state = .running) ∧
    ((dispatchVector L s w).getLsbD 3 = true ↔ s.slotcnt = 0) ∧
    ((dispatchVector L s w).getLsbD 2 = true ↔ s.cursor = L) ∧
    ((dispatchVector L s w).getLsbD 1 = true ↔ s.cancel = true) ∧
    ((dispatchVector L s w).getLsbD 0 = true ↔ w = true)) ∧
  ∀ v : BitVec 5, ∃ r ∈ schedRows, r.matches v.toNat = true ∧ r.mnemonic = (decodeSched v).mnemonic ∧
    ∀ q ∈ schedRows, q.matches v.toNat = true → q = r

/-- 30_encoding.md R74: for every width of the data, the word `cmd_op, cmd_data` of every operation code and every data
is the command of the table, with that data. -/
def Obligations.CommandWordTable : Prop :=
  ∀ (w : Nat) (d : BitVec w),
    decode (.cmd w (0b000#3 ++ d)) = .instr (.op0 ⟨w, d⟩) ∧ decode (.cmd w (0b001#3 ++ d)) = .instr (.push ⟨w, d⟩) ∧
    decode (.cmd w (0b010#3 ++ d)) = .instr (.clear ⟨w, d⟩) ∧ decode (.cmd w (0b011#3 ++ d)) = .instr (.start ⟨w, d⟩) ∧
    decode (.cmd w (0b100#3 ++ d)) = .instr (.cancel ⟨w, d⟩) ∧ decode (.cmd w (0b101#3 ++ d)) = .instr (.op5 ⟨w, d⟩) ∧
    decode (.cmd w (0b110#3 ++ d)) = .instr (.op6 ⟨w, d⟩) ∧ decode (.cmd w (0b111#3 ++ d)) = .instr (.op7 ⟨w, d⟩)

/-- Words written out from the spec's encodings decode to the instructions they stand for: the command words of
95_test_vectors.md P1 to P3, the vectors of V64 and V67, the frame of V6, the pad of V4, the markers of R71. -/
def Obligations.WrittenWordsDecode : Prop :=
  decodeTableWord 24 0x10041 = some (.push ⟨16, 0x0041#16⟩) ∧ decodeTableWord 24 0x30000 = some (.start ⟨16, 0#16⟩) ∧
  decodeTableWord 24 0x40000 = some (.cancel ⟨16, 0#16⟩) ∧ decodeTableWord 24 0x7FFFF = some (.op7 ⟨16, 0xFFFF#16⟩) ∧
  decodeTableWord 8 0b10000 = some (.wait false false) ∧ decodeTableWord 8 0b11100 = some (.finComplete false false) ∧
  decodeTableWord 16 0b010000010 = some (.charFrame 0x41#8 false) ∧ decodeTableWord 16 0b001000001 = some .padFrame ∧
  decodeTableWord 16 0b111111111111 = some .startMarker ∧ decodeTableWord 16 0 = some .stopMarker

/-- 30_encoding.md R70: of the nine-symbol patterns exactly those with an even number of ones are Character Frames. -/
def Obligations.CharacterFramesAreTheEvenPatterns : Prop :=
  ∀ w : BitVec 9, (∃ i, decode (.frame w) = .instr i) ↔
    ((List.range 9).countP fun k => w.getLsbD k) % 2 = 0

/-- The word of a table row, placed where the next step takes its instructions from, is what that step runs: as the
fetched command, as the selected scheduler operation, or as the line format in which the EMIT of the step stands. The
placing is the model's (log entries 10, 16). A command word is one of the block's own width. -/
def Obligations.PlacedWordIsRunByTheNextStep : Prop :=
  ∀ (p : Params) (s : State) (c : CodeWord) (i : Instr), decode c = .instr i → i.fits p = true →
    (s.place c).ports.rst = false ∧
    (i.format = .cmd → fetchCommand p (s.place c).ports = some i) ∧
    (i.format = .sched → fetchCommand p (s.place c).ports = none ∧
      fetchOp (seqLen (s.place c)) (s.place c) (s.place c).ports = i) ∧
    (i.format = .cf ∨ i.format = .tf → fetchCommand p (s.place c).ports = none ∧
      (∃ f, fetchOp (seqLen (s.place c)) (s.place c) (s.place c).ports = .emit f) ∧
      decode (lineWordAt (s.place c) (s.place c).cursor) = .instr i)

/-! ### The encoder and the assembler -/

/-- 40_encoder.md R111 (a), R100: narrowing is reduction modulo 256, for every width of the code. -/
def Obligations.NarrowingIsModulo256 : Prop :=
  ∀ (w : Nat) (v : BitVec w), (encCode v).toNat = v.toNat % 256

/-- 40_encoder.md R101, R102, R103: a frame has nine symbols, symbol `k` is bit `7 - k` of the code for `k` up to 7
and the parity at 8; the parity is 1 exactly when the code has an odd number of ones, the nine symbols have an even
number of ones, and different codes have different frames. -/
def Obligations.CharacterFrameLayout : Prop :=
  (∀ c : Byte, (encFrame c).length = 9 ∧ (∀ k ≤ 7, (encFrame c)[k]? = some (c.getLsbD (7 - k))) ∧
    (encFrame c)[8]? = some (encPar c) ∧ (∀ k ≤ 8, (encFrame c)[k]? = some (frameBit c k)) ∧
    (encPar c = true ↔ ((List.range 8).countP fun k => c.getLsbD k) % 2 = 1) ∧ (encFrame c).count true % 2 = 0) ∧
  ∀ c d : Byte, encFrame c = encFrame d → c = d

/-- 40_encoder.md R107: the length of the Bit Sequence is `24 + 9 * (LEN + 1)`, it is the length of the Transmission
Frame, it is 6 modulo 9, and with LEN in its range it is at most L_MAX and fits CUR_W bits. -/
def Obligations.SequenceLengthLaw : Prop :=
  ∀ s : State, seqLen s = 24 + 9 * (s.len + 1) ∧ (asmFrame s).length = seqLen s ∧ seqLen s % 9 = 6 ∧
    ∀ p : Params, s.len ≤ p.msgMax → seqLen s ≤ p.lMax ∧ seqLen s < 2 ^ p.curW

/-- 40_encoder.md R106, 30_encoding.md R71: the Transmission Frame is twelve 1 symbols, the Character Frames of the
message and of one pad in order, and twelve 0 symbols, and nothing more. The pad's code is log entry 15. -/
def Obligations.TransmissionFrameLayout : Prop :=
  ∀ s : State,
    (asmFrame s).length = 12 + 9 * (s.len + 1) + 12 ∧
    (∀ i < 12, (asmFrame s)[i]? = some true) ∧
    (∀ j < s.len, ∀ k < 9, (asmFrame s)[12 + 9 * j + k]? = some (frameBit (Memory.cell s.msg j) k)) ∧
    (∀ k < 9, (asmFrame s)[12 + 9 * s.len + k]? = some (frameBit 0x20#8 k)) ∧
    (∀ i, seqLen s - 12 ≤ i → i < seqLen s → (asmFrame s)[i]? = some false)

/-- 40_encoder.md R108: SEQ_BIT below SEQ_LEN is the marker's symbol or the frame's, by division and remainder, and
restates the Transmission Frame index by index. -/
def Obligations.SeqBitReadsTheTransmissionFrame : Prop :=
  ∀ (p : Params) (s : State) (i : Nat), s.len ≤ p.msgMax → i < seqLen s →
    ∃ b, (asmFrame s)[i]? = some b ∧ seqBit p s i = .next b ∧
      b = if i < 12 then true
        else if i < 12 + 9 * (s.len + 1) then
          frameBit (if (i - 12) / 9 < s.len then Memory.cell s.msg ((i - 12) / 9) else Config.pad) ((i - 12) % 9)
        else false

/-- 40_encoder.md R113: the reference decoder recovers the stored message and the pad from the Transmission Frame. -/
def Obligations.ReferenceDecoderRecoversTheMessage : Prop :=
  ∀ s : State, referenceDecode (asmFrame s) = some (asmChars s)

/-- 40_encoder.md R109: the Bit Sequence depends on LEN and on the live cells and on nothing else. -/
def Obligations.SequenceDependsOnLiveCellsOnly : Prop :=
  ∀ s t : State, s.len = t.len → (∀ j < s.len, Memory.cell s.msg j = Memory.cell t.msg j) →
    seqLen s = seqLen t ∧ asmFrame s = asmFrame t ∧ ∀ (p : Params) (i : Nat), seqBit p s i = seqBit p t i

/-- 20_memory.md R50, R55, R57: a cell write is read back, every other cell reads as before, and a size other than one
cell is refused. The fault at a cell that does not exist is log entry 6. -/
def Obligations.CellWriteThenRead : Prop :=
  ∀ (p : Params) (j k : Nat) (v : Byte) (s : State), j < p.msgMax → k < p.msgMax →
    (∃ t, memWrite p j 1 v s = .next t ∧ t = { s with msg := t.msg } ∧
      memRead p k 1 t = if k = j then .next v else memRead p k 1 s) ∧
    ∀ size, size ≠ 1 → memWrite p j size v s = .refused (.accessSize size) ∧
      memRead p k size s = .refused (.accessSize size)

/-! ### The host commands -/

/-- 41_commands.md R121, PUSH, in the configuration that `exec` runs and for every parameter: Busy in a session, else
Overflow in a full buffer, else the low 8 bits of the code in cell LEN and LEN one more, every other cell and register
unchanged. -/
def Obligations.PushResult : Prop :=
  (∀ (d : CharCode) (s : State), s.len ≤ Config.reference.msgMax →
    if s.state = .running then exec (.push d) s = .next { s with rspValid := true, rspCode := .busy }
    else if s.len = Config.reference.msgMax then
      exec (.push d) s = .next { s with rspValid := true, rspCode := .overflow }
    else ∃ t, exec (.push d) s = .next t ∧
      t = { s with msg := t.msg, len := s.len + 1, rspValid := true, rspCode := .ok } ∧
      Memory.stored t.msg s.len = some (d.bits.setWidth 8) ∧
      ∀ j, j ≠ s.len → Memory.stored t.msg j = Memory.stored s.msg j) ∧
  ∀ (p : Params) (B : Source) (d : CharCode) (s : State), s.len ≤ p.msgMax →
    if s.state = .running then execGen p B (.push d) s = .next { s with rspValid := true, rspCode := .busy }
    else if s.len = p.msgMax then
      execGen p B (.push d) s = .next { s with rspValid := true, rspCode := .overflow }
    else ∃ t, execGen p B (.push d) s = .next t ∧
      t = { s with msg := t.msg, len := s.len + 1, rspValid := true, rspCode := .ok } ∧
      Memory.stored t.msg s.len = some (d.bits.setWidth 8) ∧
      ∀ j, j ≠ s.len → Memory.stored t.msg j = Memory.stored s.msg j

/-- 41_commands.md R122, CLEAR: Busy in a session, else LEN is 0 and nothing else changes, whatever the data. -/
def Obligations.ClearResult : Prop :=
  ∀ (d : CharCode) (s : State),
    if s.state = .running then exec (.clear d) s = .next { s with rspValid := true, rspCode := .busy }
    else exec (.clear d) s = .next { s with len := 0, rspValid := true, rspCode := .ok }

/-- 41_commands.md R123, START: Busy in a session, else InvalidInput with an empty message, else a new session. -/
def Obligations.StartResult : Prop :=
  ∀ (d : CharCode) (s : State),
    if s.state = .running then exec (.start d) s = .next { s with rspValid := true, rspCode := .busy }
    else if s.len = 0 then exec (.start d) s = .next { s with rspValid := true, rspCode := .invalidInput }
    else exec (.start d) s = .next { s with
      state := .running, cursor := 0, slotcnt := 0, cancel := false, actWarn := false, rspValid := true,
      rspCode := .ok }

/-- 41_commands.md R124, CANCEL: the flag is set in every state and nothing else changes. -/
def Obligations.CancelResult : Prop :=
  ∀ (d : CharCode) (s : State),
    exec (.cancel d) s = .next { s with cancel := true, rspValid := true, rspCode := .ok }

/-- 41_commands.md R125, the reserved codes: IllegalCmd in every state, and no register is written; the scheduler
operation of the same cycle proceeds as if no command had been presented. -/
def Obligations.ReservedCodesResult : Prop :=
  (∀ (d : CharCode) (s : State),
    exec (.op0 d) s = .next { s with rspValid := true, rspCode := .illegalCmd } ∧
    exec (.op5 d) s = .next { s with rspValid := true, rspCode := .illegalCmd } ∧
    exec (.op6 d) s = .next { s with rspValid := true, rspCode := .illegalCmd } ∧
    exec (.op7 d) s = .next { s with rspValid := true, rspCode := .illegalCmd }) ∧
  ∀ (s : State) (i : PortIn), i.rst = false → i.cmdValid = true →
    i.cmdOp = 0b000#3 ∨ i.cmdOp = 0b101#3 ∨ i.cmdOp = 0b110#3 ∨ i.cmdOp = 0b111#3 →
    step (s.withPorts i) = andThen (step (s.withPorts { i with cmdValid := false })) fun t =>
      .next { t with rspValid := true, rspCode := .illegalCmd }

/-- 30_encoding.md R75: a command that gets a code other than OK changes no register. -/
def Obligations.RefusedCommandChangesNoRegister : Prop :=
  ∀ (i : Instr) (s t : State), i.format = .cmd → exec i s = .next t →
    t.rspValid = true ∧ (t.rspCode ≠ .ok → t = { s with rspValid := true, rspCode := t.rspCode })

/-- 10_state.md R33, 41_commands.md R127: the response of a cycle is that of the command presented in it, from the
pre-state, by the table of R127; there is none without a command or with reset. The state after the cycle records it
(log entry 2), and it is the one on the output ports of the cycle, by the numbers of 30_encoding.md R75 and
60_exceptions.md R185. -/
def Obligations.ResponsePorts : Prop :=
  ∀ (p : Params) (s t : State), stepAt p s = .next t →
    t.rspValid = (s.ports.cmdValid && !s.ports.rst) ∧
    (t.rspCode =
      if s.ports.cmdValid = false ∨ s.ports.rst = true then .ok
      else if s.ports.cmdOp = 0b001#3 then
        if s.state = .running then .busy else if s.len = p.msgMax then .overflow else .ok
      else if s.ports.cmdOp = 0b010#3 then if s.state = .running then .busy else .ok
      else if s.ports.cmdOp = 0b011#3 then
        if s.state = .running then .busy else if s.len = 0 then .invalidInput else .ok
      else if s.ports.cmdOp = 0b100#3 then .ok
      else .illegalCmd) ∧
    (outputs p s).rspValid = t.rspValid ∧ (outputs p s).rspCode = t.rspCode.code ∧
    (t.rspCode = .ok ↔ (outputs p s).rspCode = 0) ∧ (t.rspCode = .invalidInput ↔ (outputs p s).rspCode = 1) ∧
    (t.rspCode = .busy ↔ (outputs p s).rspCode = 2) ∧ (t.rspCode = .overflow ↔ (outputs p s).rspCode = 3) ∧
    (t.rspCode = .illegalCmd ↔ (outputs p s).rspCode = 4)

/-! ### The scheduler operations and the line formats -/

/-- 42_scheduler.md R141, EMIT, in the configuration that `exec` runs: the symbol of the Transmission Frame at the
cursor goes to the actuator as a set-state event, the cursor counts up and the slot timer is loaded. -/
def Obligations.EmitResult : Prop :=
  ∀ (f : Bool) (s : State), s.len ≤ Config.reference.msgMax → s.cursor < seqLen s →
    ∃ b, (asmFrame s)[s.cursor]? = some b ∧
      exec (.emit f) s = .next { s with
        act := b, actStb := true, cursor := s.cursor + 1, slotcnt := Config.reference.slotTicks - 1 }

/-- 42_scheduler.md R142, WAIT: the slot timer counts down and there is no event. -/
def Obligations.WaitResult : Prop :=
  ∀ (e k : Bool) (s : State), s.slotcnt ≠ 0 →
    exec (.wait e k) s = .next { s with slotcnt := s.slotcnt - 1, actStb := false }

/-- 42_scheduler.md R143, R144, R145, the three ends of a session: one OFF event, the outcome in STATE, the slot timer
0, everything else as it was. -/
def Obligations.FinResults : Prop :=
  ∀ (a b : Bool) (s : State),
    exec (.finComplete a b) s = .next { s with act := false, actStb := true, state := .completed, slotcnt := 0 } ∧
    exec (.finCancel a) s = .next { s with act := false, actStb := true, state := .cancelled, slotcnt := 0 } ∧
    exec (.finInterrupt a b) s = .next { s with act := false, actStb := true, state := .interrupted, slotcnt := 0 }

/-- 42_scheduler.md R146, HOLD: only ACT_STB is written. -/
def Obligations.HoldResult : Prop :=
  ∀ (z e k f : Bool) (s : State), exec (.hold z e k f) s = .next { s with actStb := false }

/-- The line formats as instructions, the model's reading in log entry 10: the symbol of the format at which the cursor
stands goes out and its slot begins; the symbols are those of 30_encoding.md R70, R71 and 40_encoder.md R103, R106. -/
def Obligations.LineFormatResults : Prop :=
  ∀ (d : Byte) (q : Bool) (s : State),
    exec .startMarker s = .next { s with
      act := true, actStb := true, cursor := s.cursor + 1, slotcnt := Config.reference.slotTicks - 1 } ∧
    exec .stopMarker s = .next { s with
      act := false, actStb := true, cursor := s.cursor + 1, slotcnt := Config.reference.slotTicks - 1 } ∧
    exec .padFrame s = .next { s with
      act := frameBit 0x20#8 ((s.cursor - 12) % 9), actStb := true, cursor := s.cursor + 1,
      slotcnt := Config.reference.slotTicks - 1 } ∧
    exec (.charFrame d q) s = .next { s with
      act := if (s.cursor - 12) % 9 = 8 then q else d.getLsbD (7 - (s.cursor - 12) % 9), actStb := true,
      cursor := s.cursor + 1, slotcnt := Config.reference.slotTicks - 1 }

/-- EMIT is the line format in which the cursor stands: the frame of the character or the marker, read off the line
and decoded (20_memory.md R51, 40_encoder.md R108; log entry 10). -/
def Obligations.EmitRunsTheLineFormatAtTheCursor : Prop :=
  ∀ (f : Bool) (s : State), s.len ≤ Config.reference.msgMax → s.cursor < seqLen s →
    ∃ i, decode (lineWordAt s s.cursor) = .instr i ∧ (i.format = .cf ∨ i.format = .tf) ∧
      exec (.emit f) s = exec i s

/-- The slot duration and the sequence enter the scheduler through EMIT, as 00_scope.md R5 and 40_encoder.md R114 have
them; `exec` and `step` are the instance of the general block at the configuration of R1, SLOT_TICKS = 100, MSG_MAX =
255 and CHAR_W = 16, and at the block's own sequence (log entry 3). -/
def Obligations.ParametersAndSequenceEnter : Prop :=
  (∀ (p : Params) (B : Nat → Symbol) (f : Bool) (s : State), execGen p (fun i => .next (B i)) (.emit f) s =
    .next { s with act := B s.cursor, actStb := true, cursor := s.cursor + 1, slotcnt := p.slotTicks - 1 }) ∧
  (∀ (i : Instr) (s : State), exec i s = execGen Config.reference (seqBit Config.reference s) i s) ∧
  (∀ s : State, step s = stepAt Config.reference s) ∧
  Config.reference.slotTicks = 100 ∧ Config.reference.msgMax = 255 ∧ Config.reference.charW = 16

/-! ### The cycle -/

/-- A step runs the decoded instructions: the command of the command port, where one is presented, and the scheduler
operation of the dispatch vector, each decoded from its word (41_commands.md R120, 42_scheduler.md R140); around them
the step takes the inputs off the list, clears the response ports, and notes the actuator's report. The spec evaluates
both on the pre-state (R154); that the step runs the command and then the operation on the state the command leaves is
the model's sequencing, log entry 14 (DEDUCED). -/
def Obligations.StepRunsTheDecodedInstructions : Prop :=
  ∀ (s : State) (c o : Instr), s.ports.rst = false →
    decode (.cmd 16 (s.ports.commandWord Config.reference)) = .instr c →
    decode (.sched (dispatchVector (seqLen s) s s.ports.waitFault)) = .instr o →
    step s = andThen (if s.ports.cmdValid = true then exec c s.beginCycle else .next s.beginCycle) fun t =>
      andThen (exec o t) fun u => .next { u with actWarn := u.actWarn || s.ports.actErr }

/-- The operation that the step executes is the one that the tests of 42_scheduler.md R140 on the pre-state select, in
that order, whether or not a command is presented. That the step carries out the command's part first and the operation
on the state it leaves is the model's sequencing, log entry 14 (DEDUCED); the spec evaluates both on the pre-state
(R154). -/
def Obligations.SchedulerSelection : Prop :=
  ∀ s : State, s.ports.rst = false →
    ∃ o, (step s = andThen (commandPart exec (fetchCommand Config.reference s.ports) s.beginCycle) fun t =>
        andThen (exec o t) fun u => .next { u with actWarn := u.actWarn || s.ports.actErr }) ∧
      o.mnemonic =
        if s.state ≠ .running then "HOLD"
        else if s.slotcnt = 0 then
          if s.cursor = seqLen s then "FIN_COMPLETE" else if s.cancel = true then "FIN_CANCEL" else "EMIT"
        else if s.ports.waitFault = true then "FIN_INTERRUPT" else "WAIT"

/-- 42_scheduler.md R154, 00_scope.md R10: where the command and the operation of a cycle, each run on the pre-state,
answer a state, the step answers the union of their writes, and no register is written by both. -/
def Obligations.StepIsTheUnionOfPreStateWrites : Prop :=
  ∀ (p : Params) (s c o : State), s.ports.rst = false →
    commandPart (execGen p (seqBit p s)) (fetchCommand p s.ports) s.beginCycle = .next c →
    execGen p (seqBit p s) (fetchOp (seqLen s) s s.ports) s.beginCycle = .next o →
    stepAt p s = .next ((mergeWrites s.beginCycle c o).noteActErr s.ports.actErr) ∧
    (c.state = s.state ∨ o.state = s.state) ∧ (c.cursor = s.cursor ∨ o.cursor = s.cursor) ∧
    (c.slotcnt = s.slotcnt ∨ o.slotcnt = s.slotcnt) ∧ o.cancel = s.cancel ∧ o.len = s.len ∧ o.msg = s.msg ∧
    c.act = s.act ∧ c.actStb = s.actStb ∧ o.actWarn = s.actWarn

/-- 70_reset_and_hazards.md R220: a reset cycle gives the reset state, from any state and with any other input, with
the message cells unchanged; no response and no event; a second reset cycle changes nothing. -/
def Obligations.ResetCycle : Prop :=
  ∀ s : State, s.ports.rst = true →
    ∃ t, step s = .next t ∧
      t = { s with
        state := .idle, cursor := 0, slotcnt := 0, cancel := false, len := 0, act := false, actStb := false,
        actWarn := false, rspValid := false, rspCode := .ok, inputs := s.inputs.tail } ∧
      (t.ports.rst = true → step t = .next { t with inputs := t.inputs.tail })

/-- 10_state.md R37: the values of the registers after reset; no message cell has been written. -/
def Obligations.ResetValues : Prop :=
  State.reset.state = .idle ∧ State.reset.cursor = 0 ∧ State.reset.slotcnt = 0 ∧ State.reset.cancel = false ∧
  State.reset.len = 0 ∧ State.reset.act = false ∧ State.reset.actStb = false ∧ State.reset.actWarn = false ∧
  ∀ j, Memory.stored State.reset.msg j = none

/-- 10_state.md R32, R34: the output ports are the registers, `state` by the codes of 30_encoding.md R76, `busy` is
Running, `done` is a terminal state. -/
def Obligations.StatusOutputs : Prop :=
  ∀ (p : Params) (s : State),
    (outputs p s).actOn = s.act ∧ (outputs p s).actStb = s.actStb ∧ (outputs p s).cancelFlag = s.cancel ∧
    (outputs p s).actWarn = s.actWarn ∧
    (s.state = .idle ↔ (outputs p s).state = 0) ∧ (s.state = .running ↔ (outputs p s).state = 1) ∧
    (s.state = .completed ↔ (outputs p s).state = 2) ∧ (s.state = .cancelled ↔ (outputs p s).state = 3) ∧
    (s.state = .interrupted ↔ (outputs p s).state = 4) ∧
    ((outputs p s).busy = true ↔ s.state = .running) ∧
    ((outputs p s).done = true ↔ s.state = .completed ∨ s.state = .cancelled ∨ s.state = .interrupted) ∧
    (Inv p s → (outputs p s).len.toNat = s.len ∧ (outputs p s).cursor.toNat = s.cursor)

/-! ### Each register's next value -/

/-- 42_scheduler.md R147, 10_state.md R20: all transitions of STATE. -/
def Obligations.StateNext : Prop :=
  ∀ (p : Params) (s t : State), stepAt p s = .next t →
    t.state =
      if s.ports.rst = true then .idle
      else if s.state = .running then
        if s.slotcnt = 0 then
          if s.cursor = seqLen s then .completed else if s.cancel = true then .cancelled else .running
        else if s.ports.waitFault = true then .interrupted else .running
      else if s.ports.presentsStart = true ∧ s.len ≠ 0 then .running
      else s.state

/-- 10_state.md R21, 42_scheduler.md R150: CURSOR changes by one in EMIT cycles, and is cleared by an accepted START
and by reset. -/
def Obligations.CursorNext : Prop :=
  ∀ (p : Params) (s t : State), stepAt p s = .next t →
    t.cursor =
      if s.ports.rst = true then 0
      else if s.state = .running then
        if s.slotcnt = 0 ∧ s.cursor ≠ seqLen s ∧ s.cancel = false then s.cursor + 1 else s.cursor
      else if s.ports.presentsStart = true ∧ s.len ≠ 0 then 0
      else s.cursor

/-- 10_state.md R22: SLOTCNT is loaded by EMIT, counted down by WAIT, and cleared by the ends of a session, an accepted
START and reset. -/
def Obligations.SlotcntNext : Prop :=
  ∀ (p : Params) (s t : State), stepAt p s = .next t →
    t.slotcnt =
      if s.ports.rst = true then 0
      else if s.state = .running then
        if s.slotcnt = 0 then
          if s.cursor = seqLen s ∨ s.cancel = true then 0 else p.slotTicks - 1
        else if s.ports.waitFault = true then 0 else s.slotcnt - 1
      else if s.ports.presentsStart = true ∧ s.len ≠ 0 then 0
      else s.slotcnt

/-- 10_state.md R23, 20_memory.md R66 (a): CANCEL is set by the CANCEL command in any state and cleared by an accepted
START and reset alone. -/
def Obligations.CancelNext : Prop :=
  ∀ (p : Params) (s t : State), stepAt p s = .next t →
    t.cancel =
      if s.ports.rst = true then false
      else if s.ports.presentsCancel = true then true
      else if s.ports.presentsStart = true ∧ s.state ≠ .running ∧ s.len ≠ 0 then false
      else s.cancel

/-- 10_state.md R24, R25: LEN and the cells are written by an accepted PUSH, LEN by an accepted CLEAR and by reset, and
by nothing else. -/
def Obligations.MessageNext : Prop :=
  ∀ (p : Params) (s t : State), stepAt p s = .next t →
    if s.ports.rst = true then t.len = 0 ∧ t.msg = s.msg
    else if s.ports.cmdValid = true ∧ s.ports.cmdOp = 0b001#3 ∧ s.state ≠ .running ∧ s.len ≠ p.msgMax then
      t.len = s.len + 1 ∧ Memory.stored t.msg s.len = some ((s.ports.code p).setWidth 8) ∧
        ∀ j, j ≠ s.len → Memory.stored t.msg j = Memory.stored s.msg j
    else if s.ports.cmdValid = true ∧ s.ports.cmdOp = 0b010#3 ∧ s.state ≠ .running then t.len = 0 ∧ t.msg = s.msg
    else t.len = s.len ∧ t.msg = s.msg

/-- 10_state.md R26, R27, 43_output_driver.md R171: ACT takes the symbol in an EMIT cycle and OFF at the end of a
session, ACT_STB says that one of them happened, and nothing else but reset writes ACT. -/
def Obligations.ActuatorNext : Prop :=
  ∀ (p : Params) (s t : State), stepAt p s = .next t →
    if s.ports.rst = true then t.act = false ∧ t.actStb = false
    else if s.state = .running ∧ s.slotcnt = 0 ∧ s.cursor ≠ seqLen s ∧ s.cancel = false then
      t.actStb = true ∧ seqBit p s s.cursor = .next t.act
    else if s.state = .running ∧ (s.slotcnt = 0 ∨ s.ports.waitFault = true) then t.actStb = true ∧ t.act = false
    else t.actStb = false ∧ t.act = s.act

/-- 10_state.md R28, 43_output_driver.md R176: a report sets ACT_WARN in every state, an accepted START clears it
unless a report comes in the same cycle, and reset clears it. -/
def Obligations.ActWarnNext : Prop :=
  ∀ (p : Params) (s t : State), stepAt p s = .next t →
    t.actWarn =
      if s.ports.rst = true then false
      else if s.ports.actErr = true then true
      else if s.ports.presentsStart = true ∧ s.state ≠ .running ∧ s.len ≠ 0 then false
      else s.actWarn

/-- 43_output_driver.md R176: a report changes ACT_WARN and nothing else. -/
def Obligations.ActErrChangesOnlyActWarn : Prop :=
  ∀ (p : Params) (s : State) (i : PortIn), i.rst = false →
    stepAt p (s.withPorts { i with actErr := true }) =
      andThen (stepAt p (s.withPorts { i with actErr := false })) fun t => .next { t with actWarn := true }

/-- 42_scheduler.md R148: outside a slot boundary with a symbol remaining, the flag is not looked at: with the other
value of CANCEL the cycle does the same and ends with that value, or with 1 where the CANCEL command is presented. -/
def Obligations.CancelNotLookedAtElsewhere : Prop :=
  ∀ (p : Params) (s t : State) (b : Bool), s.ports.rst = false → s.state = .running →
    (s.slotcnt ≠ 0 ∨ s.cursor = seqLen s) → stepAt p s = .next t →
    stepAt p { s with cancel := b } = .next { t with cancel := b || s.ports.presentsCancel }

/-- 42_scheduler.md R153: at the boundary after the last symbol the session is Completed whatever CANCEL is and
whatever is presented, and CANCEL keeps its value or is set by the command. -/
def Obligations.NoCancellationAfterTheLastSymbol : Prop :=
  ∀ (p : Params) (L : Nat) (B : Nat → Symbol) (s t : State), s.ports.rst = false → s.state = .running →
    s.slotcnt = 0 → s.cursor = L → stepGeneric p L B s = .next t →
    t.state = .completed ∧ t.cancel = (s.cancel || s.ports.presentsCancel)

/-- 43_output_driver.md R175, 60_exceptions.md R197, 10_state.md R36 (g): the cycle in which a session ends carries
exactly one OFF event, stops the slot timer, leaves the cursor, the message and its length, leaves CANCEL but for a
CANCEL command and ACT_WARN but for a report of the same cycle (R196), and is Completed only when every symbol has been
sent. -/
def Obligations.SessionEndPostcondition : Prop :=
  ∀ (p : Params) (s t : State), stepAt p s = .next t → s.state = .running → t.state.terminal = true →
    eventOf t = [false] ∧ t.act = false ∧ t.slotcnt = 0 ∧ t.cursor = s.cursor ∧ t.len = s.len ∧ t.msg = s.msg ∧
    t.cancel = (s.cancel || s.ports.presentsCancel) ∧ t.actWarn = (s.actWarn || s.ports.actErr) ∧
    (t.state = .completed → s.cursor = seqLen s) ∧ (t.state = .cancelled → s.cancel = true ∧ t.cancel = true)

/-- 20_memory.md R60: while a session runs and no reset comes, PUSH and CLEAR are answered Busy, and the buffer and
the whole Bit Sequence stay as they are. -/
def Obligations.RunningLock : Prop :=
  ∀ (p : Params) (s t : State), stepAt p s = .next t → s.state = .running → s.ports.rst = false →
    (s.ports.cmdValid = true → s.ports.cmdOp = 0b001#3 ∨ s.ports.cmdOp = 0b010#3 → t.rspCode = .busy) ∧
    t.len = s.len ∧ t.msg = s.msg ∧ seqLen t = seqLen s ∧ asmFrame t = asmFrame s ∧
    ∀ i, seqBit p t i = seqBit p s i

/-- 60_exceptions.md R185, with the causes of R186 to R192: each condition is raised in exactly the cycles of its cause,
and is recorded where the table of R185 says: in the response, in ACT_WARN or in STATE. -/
def Obligations.ConditionsHaveTheirCauses : Prop :=
  ∀ (p : Params) (s t : State), stepAt p s = .next t →
    (Condition.invalidInput ∈ conditionsRaised p s ↔
      s.ports.rst = false ∧ s.ports.presentsStart = true ∧ s.state ≠ .running ∧ s.len = 0) ∧
    (Condition.busy ∈ conditionsRaised p s ↔
      s.ports.rst = false ∧ s.ports.cmdValid = true ∧ s.state = .running ∧
        (s.ports.cmdOp = 0b001#3 ∨ s.ports.cmdOp = 0b010#3 ∨ s.ports.cmdOp = 0b011#3)) ∧
    (Condition.overflow ∈ conditionsRaised p s ↔
      s.ports.rst = false ∧ s.ports.cmdValid = true ∧ s.ports.cmdOp = 0b001#3 ∧ s.state ≠ .running ∧
        s.len = p.msgMax) ∧
    (Condition.illegalCmd ∈ conditionsRaised p s ↔
      s.ports.rst = false ∧ s.ports.cmdValid = true ∧
        (s.ports.cmdOp = 0b000#3 ∨ s.ports.cmdOp = 0b101#3 ∨ s.ports.cmdOp = 0b110#3 ∨ s.ports.cmdOp = 0b111#3)) ∧
    (Condition.actuatorError ∈ conditionsRaised p s ↔ s.ports.rst = false ∧ s.ports.actErr = true) ∧
    (Condition.interrupted ∈ conditionsRaised p s ↔
      s.ports.rst = false ∧ s.state = .running ∧ s.slotcnt ≠ 0 ∧ s.ports.waitFault = true) ∧
    (Condition.cancelled ∈ conditionsRaised p s ↔
      s.ports.rst = false ∧ s.state = .running ∧ s.slotcnt = 0 ∧ s.cursor ≠ seqLen s ∧ s.cancel = true) ∧
    (Condition.invalidInput ∈ conditionsRaised p s ↔ t.rspCode = .invalidInput) ∧
    (Condition.busy ∈ conditionsRaised p s ↔ t.rspCode = .busy) ∧
    (Condition.overflow ∈ conditionsRaised p s ↔ t.rspCode = .overflow) ∧
    (Condition.illegalCmd ∈ conditionsRaised p s ↔ t.rspCode = .illegalCmd) ∧
    (Condition.actuatorError ∈ conditionsRaised p s → t.actWarn = true) ∧
    (s.state = .running →
      (Condition.interrupted ∈ conditionsRaised p s ↔ t.state = .interrupted) ∧
      (Condition.cancelled ∈ conditionsRaised p s ↔ t.state = .cancelled))

/-! ### Invariants and runs -/

/-- 10_state.md R36: the invariants hold in the reset state, with any inputs to come. -/
def Obligations.ResetStateHasTheInvariants : Prop :=
  ∀ (p : Params) (is : List PortIn),
    Inv p { State.reset with inputs := is } ∧ SessionInv p { State.reset with inputs := is }

/-- 10_state.md R36: every step keeps the invariants, for every parameter and every input. -/
def Obligations.EveryStepKeepsTheInvariants : Prop :=
  (∀ p : Params, p.Ok → ∀ s t : State, Inv p s → stepAt p s = .next t → Inv p t) ∧
  ∀ s t : State, Inv Config.reference s → step s = .next t → Inv Config.reference t

/-- 43_output_driver.md R170, 42_scheduler.md R151, R152: every step keeps what the registers say of the session in
progress. -/
def Obligations.EveryStepKeepsTheSessionInvariants : Prop :=
  ∀ p : Params, p.Ok → ∀ s t : State, Inv p s → SessionInv p s → stepAt p s = .next t → SessionInv p t

/-- 60_exceptions.md R193: no condition stops the block: from the invariants every run, of any length and with any
inputs, answers a next state. -/
def Obligations.NoConditionStopsTheBlock : Prop :=
  ∀ p : Params, p.Ok → ∀ s : State, Inv p s → ∀ n, ∃ t, runFor (stepAt p) n s = .next t ∧ Inv p t

/-- 00_scope.md R9: the counters fit the widths of their registers. -/
def Obligations.CountersFitTheirWidths : Prop :=
  ∀ p : Params, p.Ok → ∀ s : State, Inv p s →
    s.cursor < 2 ^ p.curW ∧ s.len < 2 ^ p.lenW ∧ s.slotcnt < 2 ^ p.slotW

/-- 10_state.md R25, 20_memory.md R58: what a cell outside the message holds is unobservable: two states that differ
in such cells alone step to states that differ in such cells alone, with the same output ports. -/
def Obligations.DeadCellsAreUnobservable : Prop :=
  ∀ (p : Params) (s t u : State), SameVisible s t → stepAt p s = .next u →
    outputs p s = outputs p t ∧ ∃ v, stepAt p t = .next v ∧ SameVisible u v

/-- 42_scheduler.md R152: the first operation after an accepted START is EMIT of the first symbol, which is 1 in the
block, whatever is presented in that cycle. The premise LEN not 0 for the generic scheduler is the model's, log entry
21. -/
def Obligations.FirstOperationSendsTheFirstSymbol : Prop :=
  (∀ (p : Params) (s t u : State), s.state ≠ .running → s.ports.rst = false →
    s.ports.presentsStart = true → s.len ≠ 0 → stepAt p s = .next t → t.ports.rst = false → stepAt p t = .next u →
    eventOf t = [] ∧ eventOf u = [true] ∧ u.state = .running ∧ u.cursor = 1) ∧
  ∀ (p : Params) (L : Nat) (B : Nat → Symbol) (s t u : State), 1 ≤ L → s.state ≠ .running → s.ports.rst = false →
    s.ports.presentsStart = true → s.len ≠ 0 → stepGeneric p L B s = .next t → t.ports.rst = false →
    stepGeneric p L B t = .next u → eventOf u = [B 0] ∧ u.cursor = 1

/-- 42_scheduler.md R149, 43_output_driver.md R170: a slot is exactly SLOT_TICKS cycles, with one event in its first
cycle and the symbol's level throughout, whatever commands and reports come. -/
def Obligations.SlotIsExactlySlotTicksCycles : Prop :=
  ∀ p : Params, p.Ok → ∀ s : State, Inv p s → s.state = .running → s.slotcnt = 0 → s.cursor < seqLen s →
    s.cancel = false →
    (∀ j < p.slotTicks, (s.portsAt j).rst = false ∧ (0 < j → (s.portsAt j).waitFault = false)) →
    ∀ k, 1 ≤ k → k ≤ p.slotTicks → ∃ t, runFor (stepAt p) k s = .next t ∧ t.state = .running ∧
      t.slotcnt = p.slotTicks - k ∧ t.cursor = s.cursor + 1 ∧ seqBit p s s.cursor = .next t.act ∧
      (t.actStb = true ↔ k = 1)

/-- 42_scheduler.md R156, R151, 40_encoder.md R106: the schedule and the trace of a session that is neither cancelled
nor interrupted, for every parameter: symbol `i` is due `1 + i * SLOT_TICKS` cycles after START, the session ends
Completed after `1 + L * SLOT_TICKS` further cycles, and the trace is the Transmission Frame, then OFF. -/
def Obligations.CompletedSessionSendsTheTransmissionFrame : Prop :=
  ∀ p : Params, p.Ok → ∀ s : State, Inv p s → s.state ≠ .running → 1 ≤ s.len →
    (s.portsAt 0).rst = false → (s.portsAt 0).presentsStart = true →
    (∀ j, 1 ≤ j → j ≤ 1 + seqLen s * p.slotTicks →
      (s.portsAt j).rst = false ∧ (s.portsAt j).waitFault = false ∧ (s.portsAt j).presentsCancel = false) →
    (∀ i ≤ seqLen s, ∃ u, runFor (stepAt p) (1 + i * p.slotTicks) s = .next u ∧ u.state = .running ∧
      u.cursor = i ∧ u.slotcnt = 0) ∧
    (∀ k, 1 ≤ k → k ≤ 1 + seqLen s * p.slotTicks → ∃ u, runFor (stepAt p) k s = .next u ∧ u.state = .running) ∧
    (∃ t, runFor (stepAt p) (2 + seqLen s * p.slotTicks) s = .next t ∧ t.state = .completed ∧
      t.cursor = seqLen s ∧ t.act = false) ∧
    traceFor (stepAt p) (2 + seqLen s * p.slotTicks) s = asmFrame s ++ [false]

/-- 42_scheduler.md R151, 95_test_vectors.md S7: on any sequence, a CANCEL in one of the cycles of slot `m`, a symbol
remaining, ends the session Cancelled after `m` symbols; the trace is those symbols, then OFF. -/
def Obligations.CancelledSessionSendsAPrefix : Prop :=
  ∀ p : Params, p.Ok → ∀ (L : Nat) (B : Nat → Symbol) (s : State) (m : Nat),
    s.state = .running → s.cursor = 0 → s.slotcnt = 0 → s.cancel = false → 1 ≤ m → m < L →
    (∀ j ≤ m * p.slotTicks, (s.portsAt j).rst = false ∧ (s.portsAt j).waitFault = false) →
    (∀ j < (m - 1) * p.slotTicks, (s.portsAt j).presentsCancel = false) →
    (∃ j, (m - 1) * p.slotTicks ≤ j ∧ j < m * p.slotTicks ∧ (s.portsAt j).presentsCancel = true) →
    (∃ t, runFor (stepGeneric p L B) (m * p.slotTicks + 1) s = .next t ∧ t.state = .cancelled ∧ t.cursor = m ∧
      t.act = false) ∧
    traceFor (stepGeneric p L B) (m * p.slotTicks + 1) s = (List.range m).map B ++ [false]

/-- 20_memory.md R67: a session always ends: without a reset, whatever else is presented, its last cycle comes at most
`1 + SEQ_LEN * SLOT_TICKS` cycles after the accepted START. -/
def Obligations.EverySessionEnds : Prop :=
  ∀ p : Params, p.Ok → ∀ s : State, Inv p s → s.state ≠ .running → 1 ≤ s.len →
    (s.portsAt 0).rst = false → (s.portsAt 0).presentsStart = true →
    (∀ j, 1 ≤ j → j ≤ 1 + seqLen s * p.slotTicks → (s.portsAt j).rst = false) →
    ∃ k, 1 ≤ k ∧ k ≤ 1 + seqLen s * p.slotTicks ∧ ∃ t u, runFor (stepAt p) k s = .next t ∧ t.state = .running ∧
      runFor (stepAt p) (k + 1) s = .next u ∧ u.state.terminal = true

/-- 30_encoding.md R79, R80: the script SEND loads the text, each code by its low 8 bits, and starts its session; the
characters that are framed are those and the pad. The pad's code 0x20 is log entry 15 (PRESUMED), and that the script
drives `cmd_data` 0 in its CLEAR and its START is log entry 18 (DESIGN CHOICE). -/
def Obligations.SendScriptStartsTheText : Prop :=
  ∀ p : Params, p.Ok → ∀ (s : State) (text : List Nat), Inv p s → s.state ≠ .running → 1 ≤ text.length →
    text.length ≤ p.msgMax →
    (∀ j < text.length + 2, s.portsAt j = scriptPorts (sendLines 0 text) j) →
    ∃ t, runFor (stepAt p) (text.length + 2) s = .next t ∧ t.state = .running ∧ t.cursor = 0 ∧ t.slotcnt = 0 ∧
      t.cancel = false ∧ t.len = text.length ∧ asmChars t = text.map (BitVec.ofNat 8) ++ [0x20#8]

end TransmitterStatements
end

