-- ==== Sys2Proof/Laws/Memory.lean ====
section
/-! SUPPORT. The laws of the message buffer: a read after a write, the canonical form, and that it determines the
memory. -/

namespace Sys2Proof.Machine

@[simp] theorem stored_nil (j : Nat) : Memory.stored [] j = none := rfl

/-- The cell just stored holds the stored value. -/
@[simp] theorem stored_store_same (m : Memory) (j : Nat) (v : Byte) :
    Memory.stored (Memory.store m j v) j = some v := by
  induction m with
  | nil => simp [Memory.store, Memory.stored]
  | cons c m ih =>
    obtain ⟨a, b⟩ := c
    simp only [Memory.store]
    split
    · simp [Memory.stored]
    · split
      · simp [Memory.stored]
      · rename_i h1 h2
        have : a ≠ j := fun h => h2 h.symm
        simp [Memory.stored, this, ih]

/-- Every other cell is left as it was. -/
theorem stored_store_other (m : Memory) {j k : Nat} (v : Byte) (h : k ≠ j) :
    Memory.stored (Memory.store m j v) k = Memory.stored m k := by
  induction m with
  | nil => simp [Memory.store, Memory.stored, h.symm]
  | cons c m ih =>
    obtain ⟨a, b⟩ := c
    simp only [Memory.store]
    split
    · simp [Memory.stored, h.symm]
    · split
      · rename_i h1 h2
        subst h2
        simp [Memory.stored, h.symm]
      · simp only [Memory.stored, ih]

/-- The indices after a store are the old ones and the stored one. -/
theorem mem_store {m : Memory} {j : Nat} {v : Byte} {c : Host.Cell} (h : c ∈ Memory.store m j v) :
    c ∈ m ∨ c = (j, v) := by
  induction m with
  | nil => simpa [Memory.store] using h
  | cons d m ih =>
    obtain ⟨a, b⟩ := d
    simp only [Memory.store] at h
    split at h
    · simp only [List.mem_cons] at h ⊢; tauto
    · split at h
      · simp only [List.mem_cons] at h ⊢; tauto
      · simp only [List.mem_cons] at h ⊢
        rcases h with h | h
        · exact .inl (.inl h)
        · exact (ih h).imp .inr id

/-- Every store keeps the canonical form. -/
theorem store_wf {m : Memory} (j : Nat) (v : Byte) (h : Memory.wf m) : Memory.wf (Memory.store m j v) := by
  induction m with
  | nil => simp [Memory.store, Memory.wf]
  | cons d m ih =>
    obtain ⟨a, b⟩ := d
    obtain ⟨hd, hm⟩ := List.pairwise_cons.1 h
    simp only [Memory.store]
    split
    · rename_i hlt
      refine List.pairwise_cons.2 ⟨?_, h⟩
      intro c hc
      rcases List.mem_cons.1 hc with rfl | hc
      · exact hlt
      · exact Nat.lt_trans hlt (hd c hc)
    · split
      · rename_i _ he
        exact List.pairwise_cons.2 ⟨fun c hc => he ▸ hd c hc, hm⟩
      · rename_i h1 h2
        refine List.pairwise_cons.2 ⟨?_, ih hm⟩
        intro c hc
        rcases mem_store hc with hc | rfl
        · exact hd c hc
        · show a < j
          omega

/-- The memory of the reset state has the canonical form. -/
theorem reset_msg_wf : Memory.wf State.reset.msg := List.Pairwise.nil

/-- A cell below every listed index is not stored. -/
theorem stored_none_of_lt {m : Memory} {j : Nat} (h : ∀ c ∈ m, j < c.1) : Memory.stored m j = none := by
  induction m with
  | nil => rfl
  | cons d m ih =>
    obtain ⟨a, b⟩ := d
    have ha : j < a := h (a, b) List.mem_cons_self
    have : a ≠ j := by omega
    simp [Memory.stored, this, ih fun c hc => h c (List.mem_cons_of_mem _ hc)]

/-- In the canonical form, equal contents are equal data. -/
theorem memory_ext {m n : Memory} (hm : Memory.wf m) (hn : Memory.wf n)
    (h : ∀ j, Memory.stored m j = Memory.stored n j) : m = n := by
  induction m generalizing n with
  | nil =>
    cases n with
    | nil => rfl
    | cons d n =>
      have := h d.1
      simp [Memory.stored] at this
  | cons c m ih =>
    obtain ⟨a, b⟩ := c
    obtain ⟨hc, hm'⟩ := List.pairwise_cons.1 hm
    cases n with
    | nil =>
      have := h a
      simp [Memory.stored] at this
    | cons d n =>
      obtain ⟨a', b'⟩ := d
      obtain ⟨hd, hn'⟩ := List.pairwise_cons.1 hn
      have haa : a = a' := by
        rcases Nat.lt_trichotomy a a' with hlt | heq | hgt
        · have h1 := h a
          rw [stored_none_of_lt (m := (a', b') :: n) (j := a)] at h1
          · simp [Memory.stored] at h1
          · intro c hcm
            rcases List.mem_cons.1 hcm with rfl | hcm
            · exact hlt
            · exact Nat.lt_trans hlt (hd c hcm)
        · exact heq
        · have h1 := h a'
          rw [stored_none_of_lt (m := (a, b) :: m) (j := a')] at h1
          · simp [Memory.stored] at h1
          · intro c hcm
            rcases List.mem_cons.1 hcm with rfl | hcm
            · exact hgt
            · exact Nat.lt_trans hgt (hc c hcm)
      subst haa
      have hb := h a
      simp [Memory.stored] at hb
      subst hb
      congr 1
      apply ih hm' hn'
      intro j
      by_cases hj : a = j
      · subst hj
        rw [stored_none_of_lt hc, stored_none_of_lt hd]
      · simpa [Memory.stored, hj] using h j

/-- The cell just stored reads as the stored value. -/
@[simp] theorem cell_store_same (m : Memory) (j : Nat) (v : Byte) : Memory.cell (Memory.store m j v) j = v := by
  simp [Memory.cell]

/-- Every other cell reads as before. -/
theorem cell_store_other (m : Memory) {j k : Nat} (v : Byte) (h : k ≠ j) :
    Memory.cell (Memory.store m j v) k = Memory.cell m k := by
  simp [Memory.cell, stored_store_other m v h]

end Sys2Proof.Machine
end

