-- ==== Sys2Proof/Laws/State.lean ====
section
/-! SUPPORT. One lemma for each field and each update of the state: what the update leaves in the field. -/

namespace Sys2Proof.Machine

@[simp] theorem respond_state (s : State) (c : RspCode) : (s.respond c).state = s.state := rfl
@[simp] theorem respond_cursor (s : State) (c : RspCode) : (s.respond c).cursor = s.cursor := rfl
@[simp] theorem respond_slotcnt (s : State) (c : RspCode) : (s.respond c).slotcnt = s.slotcnt := rfl
@[simp] theorem respond_cancel (s : State) (c : RspCode) : (s.respond c).cancel = s.cancel := rfl
@[simp] theorem respond_len (s : State) (c : RspCode) : (s.respond c).len = s.len := rfl
@[simp] theorem respond_msg (s : State) (c : RspCode) : (s.respond c).msg = s.msg := rfl
@[simp] theorem respond_act (s : State) (c : RspCode) : (s.respond c).act = s.act := rfl
@[simp] theorem respond_actStb (s : State) (c : RspCode) : (s.respond c).actStb = s.actStb := rfl
@[simp] theorem respond_actWarn (s : State) (c : RspCode) : (s.respond c).actWarn = s.actWarn := rfl
@[simp] theorem respond_rspValid (s : State) (c : RspCode) : (s.respond c).rspValid = true := rfl
@[simp] theorem respond_rspCode (s : State) (c : RspCode) : (s.respond c).rspCode = c := rfl
@[simp] theorem respond_inputs (s : State) (c : RspCode) : (s.respond c).inputs = s.inputs := rfl

@[simp] theorem emit_state (s : State) (v : Symbol) : (s.emit v).state = s.state := rfl
@[simp] theorem emit_cursor (s : State) (v : Symbol) : (s.emit v).cursor = s.cursor := rfl
@[simp] theorem emit_slotcnt (s : State) (v : Symbol) : (s.emit v).slotcnt = s.slotcnt := rfl
@[simp] theorem emit_cancel (s : State) (v : Symbol) : (s.emit v).cancel = s.cancel := rfl
@[simp] theorem emit_len (s : State) (v : Symbol) : (s.emit v).len = s.len := rfl
@[simp] theorem emit_msg (s : State) (v : Symbol) : (s.emit v).msg = s.msg := rfl
@[simp] theorem emit_act (s : State) (v : Symbol) : (s.emit v).act = v := rfl
@[simp] theorem emit_actStb (s : State) (v : Symbol) : (s.emit v).actStb = true := rfl
@[simp] theorem emit_actWarn (s : State) (v : Symbol) : (s.emit v).actWarn = s.actWarn := rfl
@[simp] theorem emit_rspValid (s : State) (v : Symbol) : (s.emit v).rspValid = s.rspValid := rfl
@[simp] theorem emit_rspCode (s : State) (v : Symbol) : (s.emit v).rspCode = s.rspCode := rfl
@[simp] theorem emit_inputs (s : State) (v : Symbol) : (s.emit v).inputs = s.inputs := rfl

@[simp] theorem noEvent_state (s : State) : (s.noEvent).state = s.state := rfl
@[simp] theorem noEvent_cursor (s : State) : (s.noEvent).cursor = s.cursor := rfl
@[simp] theorem noEvent_slotcnt (s : State) : (s.noEvent).slotcnt = s.slotcnt := rfl
@[simp] theorem noEvent_cancel (s : State) : (s.noEvent).cancel = s.cancel := rfl
@[simp] theorem noEvent_len (s : State) : (s.noEvent).len = s.len := rfl
@[simp] theorem noEvent_msg (s : State) : (s.noEvent).msg = s.msg := rfl
@[simp] theorem noEvent_act (s : State) : (s.noEvent).act = s.act := rfl
@[simp] theorem noEvent_actStb (s : State) : (s.noEvent).actStb = false := rfl
@[simp] theorem noEvent_actWarn (s : State) : (s.noEvent).actWarn = s.actWarn := rfl
@[simp] theorem noEvent_rspValid (s : State) : (s.noEvent).rspValid = s.rspValid := rfl
@[simp] theorem noEvent_rspCode (s : State) : (s.noEvent).rspCode = s.rspCode := rfl
@[simp] theorem noEvent_inputs (s : State) : (s.noEvent).inputs = s.inputs := rfl

@[simp] theorem finish_state (s : State) (o : Session) : (s.finish o).state = o := rfl
@[simp] theorem finish_cursor (s : State) (o : Session) : (s.finish o).cursor = s.cursor := rfl
@[simp] theorem finish_slotcnt (s : State) (o : Session) : (s.finish o).slotcnt = 0 := rfl
@[simp] theorem finish_cancel (s : State) (o : Session) : (s.finish o).cancel = s.cancel := rfl
@[simp] theorem finish_len (s : State) (o : Session) : (s.finish o).len = s.len := rfl
@[simp] theorem finish_msg (s : State) (o : Session) : (s.finish o).msg = s.msg := rfl
@[simp] theorem finish_act (s : State) (o : Session) : (s.finish o).act = false := rfl
@[simp] theorem finish_actStb (s : State) (o : Session) : (s.finish o).actStb = true := rfl
@[simp] theorem finish_actWarn (s : State) (o : Session) : (s.finish o).actWarn = s.actWarn := rfl
@[simp] theorem finish_rspValid (s : State) (o : Session) : (s.finish o).rspValid = s.rspValid := rfl
@[simp] theorem finish_rspCode (s : State) (o : Session) : (s.finish o).rspCode = s.rspCode := rfl
@[simp] theorem finish_inputs (s : State) (o : Session) : (s.finish o).inputs = s.inputs := rfl

@[simp] theorem beginSession_state (s : State) : (s.beginSession).state = .running := rfl
@[simp] theorem beginSession_cursor (s : State) : (s.beginSession).cursor = 0 := rfl
@[simp] theorem beginSession_slotcnt (s : State) : (s.beginSession).slotcnt = 0 := rfl
@[simp] theorem beginSession_cancel (s : State) : (s.beginSession).cancel = false := rfl
@[simp] theorem beginSession_len (s : State) : (s.beginSession).len = s.len := rfl
@[simp] theorem beginSession_msg (s : State) : (s.beginSession).msg = s.msg := rfl
@[simp] theorem beginSession_act (s : State) : (s.beginSession).act = s.act := rfl
@[simp] theorem beginSession_actStb (s : State) : (s.beginSession).actStb = s.actStb := rfl
@[simp] theorem beginSession_actWarn (s : State) : (s.beginSession).actWarn = false := rfl
@[simp] theorem beginSession_rspValid (s : State) : (s.beginSession).rspValid = s.rspValid := rfl
@[simp] theorem beginSession_rspCode (s : State) : (s.beginSession).rspCode = s.rspCode := rfl
@[simp] theorem beginSession_inputs (s : State) : (s.beginSession).inputs = s.inputs := rfl

@[simp] theorem applyReset_state (s : State) : (s.applyReset).state = .idle := rfl
@[simp] theorem applyReset_cursor (s : State) : (s.applyReset).cursor = 0 := rfl
@[simp] theorem applyReset_slotcnt (s : State) : (s.applyReset).slotcnt = 0 := rfl
@[simp] theorem applyReset_cancel (s : State) : (s.applyReset).cancel = false := rfl
@[simp] theorem applyReset_len (s : State) : (s.applyReset).len = 0 := rfl
@[simp] theorem applyReset_msg (s : State) : (s.applyReset).msg = s.msg := rfl
@[simp] theorem applyReset_act (s : State) : (s.applyReset).act = false := rfl
@[simp] theorem applyReset_actStb (s : State) : (s.applyReset).actStb = false := rfl
@[simp] theorem applyReset_actWarn (s : State) : (s.applyReset).actWarn = false := rfl
@[simp] theorem applyReset_rspValid (s : State) : (s.applyReset).rspValid = false := rfl
@[simp] theorem applyReset_rspCode (s : State) : (s.applyReset).rspCode = .ok := rfl
@[simp] theorem applyReset_inputs (s : State) : (s.applyReset).inputs = s.inputs := rfl

@[simp] theorem noteActErr_state (s : State) (b : Bool) : (s.noteActErr b).state = s.state := rfl
@[simp] theorem noteActErr_cursor (s : State) (b : Bool) : (s.noteActErr b).cursor = s.cursor := rfl
@[simp] theorem noteActErr_slotcnt (s : State) (b : Bool) : (s.noteActErr b).slotcnt = s.slotcnt := rfl
@[simp] theorem noteActErr_cancel (s : State) (b : Bool) : (s.noteActErr b).cancel = s.cancel := rfl
@[simp] theorem noteActErr_len (s : State) (b : Bool) : (s.noteActErr b).len = s.len := rfl
@[simp] theorem noteActErr_msg (s : State) (b : Bool) : (s.noteActErr b).msg = s.msg := rfl
@[simp] theorem noteActErr_act (s : State) (b : Bool) : (s.noteActErr b).act = s.act := rfl
@[simp] theorem noteActErr_actStb (s : State) (b : Bool) : (s.noteActErr b).actStb = s.actStb := rfl
@[simp] theorem noteActErr_actWarn (s : State) (b : Bool) : (s.noteActErr b).actWarn = (s.actWarn || b) := rfl
@[simp] theorem noteActErr_rspValid (s : State) (b : Bool) : (s.noteActErr b).rspValid = s.rspValid := rfl
@[simp] theorem noteActErr_rspCode (s : State) (b : Bool) : (s.noteActErr b).rspCode = s.rspCode := rfl
@[simp] theorem noteActErr_inputs (s : State) (b : Bool) : (s.noteActErr b).inputs = s.inputs := rfl

@[simp] theorem beginCycle_state (s : State) : (s.beginCycle).state = s.state := rfl
@[simp] theorem beginCycle_cursor (s : State) : (s.beginCycle).cursor = s.cursor := rfl
@[simp] theorem beginCycle_slotcnt (s : State) : (s.beginCycle).slotcnt = s.slotcnt := rfl
@[simp] theorem beginCycle_cancel (s : State) : (s.beginCycle).cancel = s.cancel := rfl
@[simp] theorem beginCycle_len (s : State) : (s.beginCycle).len = s.len := rfl
@[simp] theorem beginCycle_msg (s : State) : (s.beginCycle).msg = s.msg := rfl
@[simp] theorem beginCycle_act (s : State) : (s.beginCycle).act = s.act := rfl
@[simp] theorem beginCycle_actStb (s : State) : (s.beginCycle).actStb = s.actStb := rfl
@[simp] theorem beginCycle_actWarn (s : State) : (s.beginCycle).actWarn = s.actWarn := rfl
@[simp] theorem beginCycle_rspValid (s : State) : (s.beginCycle).rspValid = false := rfl
@[simp] theorem beginCycle_rspCode (s : State) : (s.beginCycle).rspCode = .ok := rfl
@[simp] theorem beginCycle_inputs (s : State) : (s.beginCycle).inputs = s.inputs.tail := rfl

@[simp] theorem withPorts_state (s : State) (i : PortIn) : (s.withPorts i).state = s.state := rfl
@[simp] theorem withPorts_cursor (s : State) (i : PortIn) : (s.withPorts i).cursor = s.cursor := rfl
@[simp] theorem withPorts_slotcnt (s : State) (i : PortIn) : (s.withPorts i).slotcnt = s.slotcnt := rfl
@[simp] theorem withPorts_cancel (s : State) (i : PortIn) : (s.withPorts i).cancel = s.cancel := rfl
@[simp] theorem withPorts_len (s : State) (i : PortIn) : (s.withPorts i).len = s.len := rfl
@[simp] theorem withPorts_msg (s : State) (i : PortIn) : (s.withPorts i).msg = s.msg := rfl
@[simp] theorem withPorts_act (s : State) (i : PortIn) : (s.withPorts i).act = s.act := rfl
@[simp] theorem withPorts_actStb (s : State) (i : PortIn) : (s.withPorts i).actStb = s.actStb := rfl
@[simp] theorem withPorts_actWarn (s : State) (i : PortIn) : (s.withPorts i).actWarn = s.actWarn := rfl
@[simp] theorem withPorts_rspValid (s : State) (i : PortIn) : (s.withPorts i).rspValid = s.rspValid := rfl
@[simp] theorem withPorts_rspCode (s : State) (i : PortIn) : (s.withPorts i).rspCode = s.rspCode := rfl
@[simp] theorem withPorts_inputs (s : State) (i : PortIn) : (s.withPorts i).inputs = i :: s.inputs.tail := rfl

@[simp] theorem sendSymbol_state (p : Params) (b : Symbol) (s : State) : (s.sendSymbol p b).state = s.state := rfl
@[simp] theorem sendSymbol_cursor (p : Params) (b : Symbol) (s : State) : (s.sendSymbol p b).cursor = s.cursor + 1 := rfl
@[simp] theorem sendSymbol_slotcnt (p : Params) (b : Symbol) (s : State) : (s.sendSymbol p b).slotcnt = p.slotTicks - 1 := rfl
@[simp] theorem sendSymbol_cancel (p : Params) (b : Symbol) (s : State) : (s.sendSymbol p b).cancel = s.cancel := rfl
@[simp] theorem sendSymbol_len (p : Params) (b : Symbol) (s : State) : (s.sendSymbol p b).len = s.len := rfl
@[simp] theorem sendSymbol_msg (p : Params) (b : Symbol) (s : State) : (s.sendSymbol p b).msg = s.msg := rfl
@[simp] theorem sendSymbol_act (p : Params) (b : Symbol) (s : State) : (s.sendSymbol p b).act = b := rfl
@[simp] theorem sendSymbol_actStb (p : Params) (b : Symbol) (s : State) : (s.sendSymbol p b).actStb = true := rfl
@[simp] theorem sendSymbol_actWarn (p : Params) (b : Symbol) (s : State) : (s.sendSymbol p b).actWarn = s.actWarn := rfl
@[simp] theorem sendSymbol_rspValid (p : Params) (b : Symbol) (s : State) : (s.sendSymbol p b).rspValid = s.rspValid := rfl
@[simp] theorem sendSymbol_rspCode (p : Params) (b : Symbol) (s : State) : (s.sendSymbol p b).rspCode = s.rspCode := rfl
@[simp] theorem sendSymbol_inputs (p : Params) (b : Symbol) (s : State) : (s.sendSymbol p b).inputs = s.inputs := rfl

@[simp] theorem withPorts_ports (s : State) (i : PortIn) : (s.withPorts i).ports = i := rfl

end Sys2Proof.Machine
end

