-- ==== Sys2Proof/Laws/Ops.lean ====
section
/-! SUPPORT. For each shared operation, once, everything it can do; the provers cite these lemmas instead of unfolding
the operations. -/

namespace Sys2Proof.Machine

@[simp] theorem andThen_next {α β φ ρ : Type} (a : α) (g : α → Host.Outcome β φ ρ) :
    andThen (.next a) g = g a := rfl

/-- Two outcomes in sequence answer a next value exactly where both do. -/
theorem andThen_eq_next {α β φ ρ : Type} {o : Host.Outcome α φ ρ} {g : α → Host.Outcome β φ ρ} {b : β} :
    andThen o g = .next b ↔ ∃ a, o = .next a ∧ g a = .next b := by
  cases o <;> simp [andThen]

/-- A cell read answers exactly the cell, for one existing cell. -/
theorem memRead_eq_next {p : Params} {j size : Nat} {s : State} {v : Byte} :
    memRead p j size s = .next v ↔ size = 1 ∧ j < p.msgMax ∧ v = Memory.cell s.msg j := by
  unfold memRead
  split
  · split
    · simp_all [eq_comm]
    · simp_all
  · simp_all

/-- A cell write answers exactly the stored cell, for one existing cell. -/
theorem memWrite_eq_next {p : Params} {j size : Nat} {v : Byte} {s t : State} :
    memWrite p j size v s = .next t ↔
      size = 1 ∧ j < p.msgMax ∧ t = { s with msg := Memory.store s.msg j v } := by
  unfold memWrite
  split
  · split
    · simp_all [eq_comm]
    · simp_all
  · simp_all

/-- What PUSH can answer as a next state. -/
theorem pushAt_cases {p : Params} {d : CharCode} {s t : State} (h : pushAt p d s = .next t) :
    (s.state = .running ∧ t = s.respond .busy) ∨
    (s.state ≠ .running ∧ s.len = p.msgMax ∧ t = s.respond .overflow) ∨
    (s.state ≠ .running ∧ s.len < p.msgMax ∧
      t = { s with msg := Memory.store s.msg s.len (encCode d.bits), len := s.len + 1 }.respond .ok) := by
  unfold pushAt at h
  split at h
  · cases h; exact .inl ⟨‹_›, rfl⟩
  · split at h
    · cases h; exact .inr (.inl ⟨‹_›, ‹_›, rfl⟩)
    · obtain ⟨u, hu, ht⟩ := andThen_eq_next.1 h
      obtain ⟨-, hj, rfl⟩ := memWrite_eq_next.1 hu
      cases ht
      exact .inr (.inr ⟨‹_›, hj, rfl⟩)

/-- PUSH answers a next state wherever LEN is in its range. -/
theorem pushAt_next {p : Params} {s : State} (d : CharCode) (h : s.len ≤ p.msgMax) : ∃ t, pushAt p d s = .next t := by
  unfold pushAt
  split
  · exact ⟨_, rfl⟩
  · split
    · exact ⟨_, rfl⟩
    · have hlt : s.len < p.msgMax := by omega
      exact ⟨_, andThen_eq_next.2 ⟨_, memWrite_eq_next.2 ⟨rfl, hlt, rfl⟩, rfl⟩⟩

/-- What CLEAR answers. -/
theorem clearOp_cases (s : State) :
    (s.state = .running ∧ clearOp s = .next (s.respond .busy)) ∨
    (s.state ≠ .running ∧ clearOp s = .next ({ s with len := 0 }.respond .ok)) := by
  unfold clearOp
  split
  · exact .inl ⟨‹_›, rfl⟩
  · exact .inr ⟨‹_›, rfl⟩

/-- What START answers. -/
theorem startOp_cases (s : State) :
    (s.state = .running ∧ startOp s = .next (s.respond .busy)) ∨
    (s.state ≠ .running ∧ s.len = 0 ∧ startOp s = .next (s.respond .invalidInput)) ∨
    (s.state ≠ .running ∧ s.len ≠ 0 ∧ startOp s = .next (s.beginSession.respond .ok)) := by
  unfold startOp
  split
  · exact .inl ⟨‹_›, rfl⟩
  · split
    · exact .inr (.inl ⟨‹_›, ‹_›, rfl⟩)
    · exact .inr (.inr ⟨‹_›, ‹_›, rfl⟩)

/-- The fetched character is the framed list's, where the index is in the existing cells. -/
theorem fetchChar_next {p : Params} {s : State} {j : Nat} (h : s.len ≤ p.msgMax) :
    fetchChar p s j = .next (charAt s j) := by
  unfold fetchChar charAt
  split
  · exact memRead_eq_next.2 ⟨rfl, by omega, rfl⟩
  · rfl

/-- SEQ_BIT answers a symbol at every index, where LEN is in its range. -/
theorem seqBit_next {p : Params} {s : State} (i : Nat) (h : s.len ≤ p.msgMax) :
    seqBit p s i = .next
      (if i < 12 then true
       else if i < 12 + 9 * (s.len + 1) then frameBit (charAt s ((i - 12) / 9)) ((i - 12) % 9)
       else false) := by
  simp only [seqBit, fetchChar_next h, andThen_next, Config.markerLen, Config.frameLen, charIndex, frameIndex]
  split
  · rfl
  · split <;> rfl

/-- SEQ_BIT looks at LEN and at MSG alone (40_encoder.md R109). -/
theorem seqBit_congr {s t : State} (p : Params) (hl : s.len = t.len) (hm : s.msg = t.msg) (i : Nat) :
    seqBit p s i = seqBit p t i := by
  simp only [seqBit, fetchChar, memRead, hl, hm]

/-- What EMIT can answer as a next state. -/
theorem emitAt_eq_next {p : Params} {b : Host.Outcome Symbol Fault Refusal} {s t : State} :
    emitAt p b s = .next t ↔ ∃ v, b = .next v ∧ t = s.sendSymbol p v := by
  simp only [emitAt, andThen_eq_next, Host.Outcome.next.injEq, eq_comm (a := t)]

@[simp] theorem waitOp_eq (s : State) : waitOp s = .next { s.noEvent with slotcnt := s.slotcnt - 1 } := rfl
@[simp] theorem finOp_eq (o : Session) (s : State) : finOp o s = .next (s.finish o) := rfl
@[simp] theorem holdOp_eq (s : State) : holdOp s = .next s.noEvent := rfl
@[simp] theorem cancelOp_eq (s : State) : cancelOp s = .next ({ s with cancel := true }.respond .ok) := rfl
@[simp] theorem reservedOp_eq (s : State) : reservedOp s = .next (s.respond .illegalCmd) := rfl
@[simp] theorem frameSymbolAt_eq (p : Params) (d : Byte) (q : Symbol) (s : State) :
    frameSymbolAt p d q s = .next (s.sendSymbol p (cfSymbol d q (frameIndex s.cursor))) := rfl
@[simp] theorem markerSymbolAt_eq (p : Params) (v : Symbol) (s : State) :
    markerSymbolAt p v s = .next (s.sendSymbol p v) := rfl

/-- The operation that a cycle selects, as the tests of 42_scheduler.md R140. -/
theorem fetchOp_eq (L : Nat) (s : State) (i : PortIn) :
    fetchOp L s i =
      if s.state = .running then
        if s.slotcnt = 0 then
          if s.cursor = L then .finComplete s.cancel i.waitFault
          else if s.cancel = true then .finCancel i.waitFault
          else .emit i.waitFault
        else if i.waitFault = true then .finInterrupt (s.cursor == L) s.cancel
        else .wait (s.cursor == L) s.cancel
      else .hold (s.slotcnt == 0) (s.cursor == L) s.cancel i.waitFault := by
  have key : ∀ r z e k f : Bool, decodeSched (vectorOf r z e k f) =
      if r then (if z then (if e then .finComplete k f else if k then .finCancel f else .emit f)
        else if f then .finInterrupt e k else .wait e k) else .hold z e k f := by decide
  simp only [fetchOp, dispatchVector, key, flagR, flagZ, flagE, flagK, beq_iff_eq]

/-- The operation code of a command word is the one it was made of (30_encoding.md R74). -/
@[simp] theorem cmdOpOf_cmdWordOf {w : Nat} (op : BitVec 3) (d : BitVec w) : cmdOpOf (cmdWordOf op d) = op := by
  apply BitVec.eq_of_getLsbD_eq
  intro j hj
  have hw : ¬ w + j < w := by omega
  simp only [cmdOpOf, cmdWordOf, BitVec.getLsbD_extractLsb', BitVec.getLsbD_append, hw, if_false, hj,
    decide_true, Bool.true_and, Nat.add_sub_cancel_left]

/-- The data of a command word is the one it was made of (30_encoding.md R74). -/
@[simp] theorem cmdDataOf_cmdWordOf {w : Nat} (op : BitVec 3) (d : BitVec w) : cmdDataOf (cmdWordOf op d) = d := by
  apply BitVec.eq_of_getLsbD_eq
  intro j hj
  simp only [cmdDataOf, cmdWordOf, BitVec.getLsbD_extractLsb', BitVec.getLsbD_append, hj, if_true,
    decide_true, Bool.true_and, Nat.zero_add]

/-- A command word is the one made of its operation code and its data (30_encoding.md R74). -/
theorem cmdWordOf_fields {w : Nat} (word : BitVec (3 + w)) : cmdWordOf (cmdOpOf word) (cmdDataOf word) = word := by
  apply BitVec.eq_of_getLsbD_eq
  intro j hj
  simp only [cmdOpOf, cmdDataOf, cmdWordOf, BitVec.getLsbD_append, BitVec.getLsbD_extractLsb']
  split
  · simp [‹j < w›]
  · simp [show j - w < 3 by omega, show w + (j - w) = j by omega]

/-- The command that a cycle fetches, by its operation code (30_encoding.md R74). -/
theorem fetchCommand_eq (p : Params) (i : PortIn) :
    fetchCommand p i = if i.cmdValid then some (decodeOp i.cmdOp ⟨p.charW, i.code p⟩) else none := by
  simp only [fetchCommand, PortIn.commandWord, decodeCmd, cmdOpOf_cmdWordOf, cmdDataOf_cmdWordOf]

/-- The eight operation codes. -/
theorem op_cases (op : BitVec 3) :
    op = 0b000#3 ∨ op = 0b001#3 ∨ op = 0b010#3 ∨ op = 0b011#3 ∨ op = 0b100#3 ∨ op = 0b101#3 ∨ op = 0b110#3 ∨
      op = 0b111#3 := by
  revert op; decide

/-- A reset cycle (70_reset_and_hazards.md R220). -/
theorem cycle_reset {p : Params} {ex : Instr → State → Result} {L : Nat} {s : State} (h : s.ports.rst = true) :
    cycle p ex L s = .next s.beginCycle.applyReset := by
  simp [cycle, h]

/-- Everything a cycle without reset can do: the command, the operation, the report. -/
theorem cycle_eq_next {p : Params} {ex : Instr → State → Result} {L : Nat} {s t : State} (h : s.ports.rst = false) :
    cycle p ex L s = .next t ↔
      ∃ u v, commandPart ex (fetchCommand p s.ports) s.beginCycle = .next u ∧ ex (fetchOp L s s.ports) u = .next v ∧
        t = v.noteActErr s.ports.actErr := by
  simp only [cycle, h, Bool.false_eq_true, if_false, andThen_eq_next, Host.Outcome.next.injEq, eq_comm (a := t)]
  constructor
  · rintro ⟨u, hu, v, hv, ht⟩; exact ⟨u, v, hu, hv, ht⟩
  · rintro ⟨u, v, hu, hv, ht⟩; exact ⟨u, hu, v, hv, ht⟩

/-- Everything a command can do, for every parameter and sequence: it answers a response, and what it writes beside
it. -/
theorem command_cases {p : Params} {B : Source} {i : PortIn} {s u : State}
    (h : commandPart (execGen p B) (fetchCommand p i) s = .next u) :
    (i.cmdValid = false ∧ u = s) ∨
    (i.cmdValid = true ∧ i.cmdOp = 0b001#3 ∧ pushAt p ⟨p.charW, i.code p⟩ s = .next u) ∨
    (i.cmdValid = true ∧ i.cmdOp = 0b010#3 ∧ clearOp s = .next u) ∨
    (i.cmdValid = true ∧ i.cmdOp = 0b011#3 ∧ startOp s = .next u) ∨
    (i.cmdValid = true ∧ i.cmdOp = 0b100#3 ∧ u = { s with cancel := true }.respond .ok) ∨
    (i.cmdValid = true ∧ i.cmdOp ≠ 0b001#3 ∧ i.cmdOp ≠ 0b010#3 ∧ i.cmdOp ≠ 0b011#3 ∧ i.cmdOp ≠ 0b100#3 ∧
      u = s.respond .illegalCmd) := by
  rw [fetchCommand_eq] at h
  cases hv : i.cmdValid with
  | false => simp [hv, commandPart] at h; simp [h]
  | true =>
    simp only [hv, if_true, commandPart, decodeOp] at h
    rcases op_cases i.cmdOp with ho | ho | ho | ho | ho | ho | ho | ho <;>
      simp [ho, execGen] at h <;> simp [ho, h]

/-- The meanings at the reference configuration are the machine's. -/
theorem execGen_reference (i : Instr) (s : State) :
    execGen Config.reference (seqBit Config.reference s) i s = exec i s := by
  cases i <;> rfl

end Sys2Proof.Machine
end

