-- ==== Sys2Proof/Laws/Cycle.lean ====
section
/-! SUPPORT. Everything one clock cycle can do, once: an inversion lemma for the command of a cycle and one for the
cycle, in a session and outside one, each with the lemma that it answers a next state. The provers cite these instead
of unfolding `cycle`. -/

namespace Sys2Proof.Machine

variable {p : Params} {L : Nat} {B : Source} {i : PortIn} {s t u : State}

/-- A register that the operation leaves alone has the command's value. -/
@[simp] theorem written_command {α : Type} [DecidableEq α] (pre a : α) : written pre a pre = a := by
  unfold written; split <;> simp_all

/-- A register that the command leaves alone has the operation's value. -/
@[simp] theorem written_operation {α : Type} [DecidableEq α] (pre b : α) : written pre pre b = b := by
  simp [written]

/-- In a session a command writes at most CANCEL beside its response (42_scheduler.md R154). -/
theorem command_running_cases (hr : s.state = .running)
    (h : commandPart (execGen p B) (fetchCommand p i) s = .next u) :
    ∃ v c, u = { s with cancel := s.cancel || i.presentsCancel, rspValid := v, rspCode := c } := by
  rcases command_cases h with ⟨hv, rfl⟩ | ⟨hv, ho, hx⟩ | ⟨hv, ho, hx⟩ | ⟨hv, ho, hx⟩ | ⟨hv, ho, rfl⟩ |
    ⟨hv, _, _, _, h4, rfl⟩
  · exact ⟨u.rspValid, u.rspCode, by simp [PortIn.presentsCancel, hv]⟩
  · rcases pushAt_cases hx with ⟨_, rfl⟩ | ⟨h, _⟩ | ⟨h, _⟩
    · exact ⟨true, .busy, by simp [PortIn.presentsCancel, ho, State.respond]⟩
    · exact absurd hr h
    · exact absurd hr h
  · rcases clearOp_cases s with ⟨_, hc⟩ | ⟨h, _⟩
    · rw [hc] at hx; cases hx
      exact ⟨true, .busy, by simp [PortIn.presentsCancel, ho, State.respond]⟩
    · exact absurd hr h
  · rcases startOp_cases s with ⟨_, hc⟩ | ⟨h, _⟩ | ⟨h, _⟩
    · rw [hc] at hx; cases hx
      exact ⟨true, .busy, by simp [PortIn.presentsCancel, ho, State.respond]⟩
    · exact absurd hr h
    · exact absurd hr h
  · exact ⟨true, .ok, by simp [PortIn.presentsCancel, hv, ho, State.respond]⟩
  · exact ⟨true, .illegalCmd, by simp [PortIn.presentsCancel, h4, State.respond]⟩

/-- In a session every command answers a next state: at most CANCEL is set (42_scheduler.md R154). -/
theorem command_running_next (p : Params) (B : Source) (i : PortIn) (hr : s.state = .running) :
    ∃ v c, commandPart (execGen p B) (fetchCommand p i) s =
      .next { s with cancel := s.cancel || i.presentsCancel, rspValid := v, rspCode := c } := by
  have : ∃ u, commandPart (execGen p B) (fetchCommand p i) s = .next u := by
    rw [fetchCommand_eq]
    split
    · rcases op_cases i.cmdOp with ho | ho | ho | ho | ho | ho | ho | ho <;>
        simp [ho, commandPart, decodeOp, execGen, pushAt, clearOp, startOp, hr]
    · exact ⟨_, rfl⟩
  obtain ⟨u, hu⟩ := this
  obtain ⟨v, c, rfl⟩ := command_running_cases hr hu
  exact ⟨v, c, hu⟩

/-- Outside a session a command is an accepted PUSH, an accepted CLEAR, an accepted START, or writes at most CANCEL
beside its response (41_commands.md R127). -/
theorem command_idle_cases (hr : s.state ≠ .running)
    (h : commandPart (execGen p B) (fetchCommand p i) s = .next u) :
    (i.cmdValid = true ∧ i.cmdOp = 0b001#3 ∧ s.len < p.msgMax ∧
      u = { s with msg := Memory.store s.msg s.len (encCode (i.code p)), len := s.len + 1 }.respond .ok) ∨
    (i.cmdValid = true ∧ i.cmdOp = 0b010#3 ∧ u = { s with len := 0 }.respond .ok) ∨
    (i.presentsStart = true ∧ i.cmdOp = 0b011#3 ∧ s.len ≠ 0 ∧ u = s.beginSession.respond .ok) ∨
    ((i.presentsStart = true → s.len = 0) ∧ ¬ (i.cmdValid = true ∧ i.cmdOp = 0b010#3) ∧
      ¬ (i.cmdValid = true ∧ i.cmdOp = 0b001#3 ∧ s.len ≠ p.msgMax) ∧
      ∃ v c, u = { s with cancel := s.cancel || i.presentsCancel, rspValid := v, rspCode := c }) := by
  rcases command_cases h with ⟨hv, rfl⟩ | ⟨hv, ho, hx⟩ | ⟨hv, ho, hx⟩ | ⟨hv, ho, hx⟩ | ⟨hv, ho, rfl⟩ |
    ⟨hv, h1, h2, h3, h4, rfl⟩
  · exact .inr (.inr (.inr ⟨by simp [PortIn.presentsStart, hv], by simp [hv], by simp [hv], u.rspValid, u.rspCode,
      by simp [PortIn.presentsCancel, hv]⟩))
  · rcases pushAt_cases hx with ⟨h, _⟩ | ⟨_, hl, rfl⟩ | ⟨_, hl, rfl⟩
    · exact absurd h hr
    · exact .inr (.inr (.inr ⟨by simp [PortIn.presentsStart, ho], by simp [ho], by simp [hl], true, .overflow,
        by simp [PortIn.presentsCancel, ho, State.respond]⟩))
    · exact .inl ⟨hv, ho, hl, rfl⟩
  · rcases clearOp_cases s with ⟨h, _⟩ | ⟨_, hc⟩
    · exact absurd h hr
    · rw [hc] at hx; cases hx
      exact .inr (.inl ⟨hv, ho, rfl⟩)
  · rcases startOp_cases s with ⟨h, _⟩ | ⟨_, hl, hc⟩ | ⟨_, hl, hc⟩
    · exact absurd h hr
    · rw [hc] at hx; cases hx
      exact .inr (.inr (.inr ⟨by simp [hl], by simp [ho], by simp [ho], true, .invalidInput,
        by simp [PortIn.presentsCancel, ho, State.respond]⟩))
    · rw [hc] at hx; cases hx
      exact .inr (.inr (.inl ⟨by simp [PortIn.presentsStart, hv, ho], ho, hl, rfl⟩))
  · exact .inr (.inr (.inr ⟨by simp [PortIn.presentsStart, ho], by simp [ho], by simp [ho], true, .ok,
      by simp [PortIn.presentsCancel, hv, ho, State.respond]⟩))
  · exact .inr (.inr (.inr ⟨by simp [PortIn.presentsStart, h3], by simp [h2], by simp [h1], true, .illegalCmd,
      by simp [PortIn.presentsCancel, h4, State.respond]⟩))

/-- Every command answers a next state where LEN is in its range. -/
theorem command_next (i : PortIn) (hl : s.len ≤ p.msgMax) :
    ∃ u, commandPart (execGen p B) (fetchCommand p i) s = .next u := by
  rw [fetchCommand_eq]
  split
  · rcases op_cases i.cmdOp with ho | ho | ho | ho | ho | ho | ho | ho <;>
      simp [ho, commandPart, decodeOp, execGen]
    · exact pushAt_next _ hl
    · rcases clearOp_cases s with ⟨_, h⟩ | ⟨_, h⟩ <;> exact ⟨_, h⟩
    · rcases startOp_cases s with ⟨_, h⟩ | ⟨_, _, h⟩ | ⟨_, _, h⟩ <;> exact ⟨_, h⟩
  · exact ⟨_, rfl⟩

/-- Everything a cycle of a session can do: the five operations of 42_scheduler.md R140 in a session, the command
writing at most CANCEL. -/
theorem cycle_running_cases (hrst : s.ports.rst = false) (hr : s.state = .running)
    (h : cycle p (execGen p B) L s = .next t) :
    ∃ v c,
      (s.slotcnt = 0 ∧ s.cursor = L ∧ t = { s with
        inputs := s.inputs.tail, cancel := s.cancel || s.ports.presentsCancel, rspValid := v, rspCode := c,
        act := false, actStb := true, state := .completed, slotcnt := 0,
        actWarn := s.actWarn || s.ports.actErr }) ∨
      (s.slotcnt = 0 ∧ s.cursor ≠ L ∧ s.cancel = true ∧ t = { s with
        inputs := s.inputs.tail, cancel := s.cancel || s.ports.presentsCancel, rspValid := v, rspCode := c,
        act := false, actStb := true, state := .cancelled, slotcnt := 0,
        actWarn := s.actWarn || s.ports.actErr }) ∨
      (s.slotcnt = 0 ∧ s.cursor ≠ L ∧ s.cancel = false ∧ ∃ b, B s.cursor = .next b ∧ t = { s with
        inputs := s.inputs.tail, cancel := s.cancel || s.ports.presentsCancel, rspValid := v, rspCode := c,
        act := b, actStb := true, cursor := s.cursor + 1, slotcnt := p.slotTicks - 1,
        actWarn := s.actWarn || s.ports.actErr }) ∨
      (s.slotcnt ≠ 0 ∧ s.ports.waitFault = true ∧ t = { s with
        inputs := s.inputs.tail, cancel := s.cancel || s.ports.presentsCancel, rspValid := v, rspCode := c,
        act := false, actStb := true, state := .interrupted, slotcnt := 0,
        actWarn := s.actWarn || s.ports.actErr }) ∨
      (s.slotcnt ≠ 0 ∧ s.ports.waitFault = false ∧ t = { s with
        inputs := s.inputs.tail, cancel := s.cancel || s.ports.presentsCancel, rspValid := v, rspCode := c,
        actStb := false, slotcnt := s.slotcnt - 1, actWarn := s.actWarn || s.ports.actErr }) := by
  obtain ⟨u, w, hu, hw, rfl⟩ := (cycle_eq_next hrst).1 h
  obtain ⟨v, c, rfl⟩ := command_running_cases (by simpa using hr) hu
  refine ⟨v, c, ?_⟩
  rw [fetchOp_eq] at hw
  simp only [hr, if_true] at hw
  by_cases hz : s.slotcnt = 0
  · simp only [hz, if_true] at hw
    by_cases he : s.cursor = L
    · simp only [he, if_true, execGen, finOp_eq] at hw; cases hw
      exact .inl ⟨hz, he, by subst he; rfl⟩
    · simp only [he, if_false] at hw
      cases hk : s.cancel with
      | true =>
        simp only [hk, if_true, execGen, finOp_eq] at hw; cases hw
        refine .inr (.inl ⟨hz, he, rfl, ?_⟩)
        simp [State.finish, State.emit, State.noteActErr, State.beginCycle, hk]
      | false =>
        simp only [hk, execGen] at hw
        obtain ⟨b, hb, rfl⟩ := emitAt_eq_next.1 hw
        refine .inr (.inr (.inl ⟨hz, he, rfl, b, hb, ?_⟩))
        simp [State.sendSymbol, State.emit, State.noteActErr, State.beginCycle, hk]
  · simp only [hz, if_false] at hw
    cases hf : s.ports.waitFault with
    | true =>
      simp only [hf, if_true, execGen, finOp_eq] at hw; cases hw
      exact .inr (.inr (.inr (.inl ⟨hz, rfl, rfl⟩)))
    | false =>
      simp [hf, execGen] at hw
      subst hw
      exact .inr (.inr (.inr (.inr ⟨hz, rfl, rfl⟩)))

/-- A cycle of a session answers a next state where the sequence has its symbol. -/
theorem cycle_running_next (hrst : s.ports.rst = false) (hr : s.state = .running)
    (hB : s.slotcnt = 0 → s.cursor ≠ L → s.cancel = false → ∃ b, B s.cursor = .next b) :
    ∃ t, cycle p (execGen p B) L s = .next t := by
  obtain ⟨v, c, hu⟩ := command_running_next p B s.ports (s := s.beginCycle) (by simpa using hr)
  have : ∃ w, execGen p B (fetchOp L s s.ports)
      { s.beginCycle with
        cancel := s.beginCycle.cancel || s.ports.presentsCancel, rspValid := v, rspCode := c } = .next w := by
    rw [fetchOp_eq]
    simp only [hr, if_true]
    split
    · split
      · exact ⟨_, rfl⟩
      · split
        · exact ⟨_, rfl⟩
        · obtain ⟨b, hb⟩ := hB ‹_› ‹_› (by simpa using ‹¬ s.cancel = true›)
          exact ⟨_, emitAt_eq_next.2 ⟨b, hb, rfl⟩⟩
    · split
      · exact ⟨_, rfl⟩
      · exact ⟨_, rfl⟩
  obtain ⟨w, hw⟩ := this
  exact ⟨_, (cycle_eq_next hrst).2 ⟨_, w, hu, hw, rfl⟩⟩

/-- Everything a cycle outside a session can do: HOLD with a command. -/
theorem cycle_idle_cases (hrst : s.ports.rst = false) (hr : s.state ≠ .running)
    (h : cycle p (execGen p B) L s = .next t) :
    (s.ports.cmdValid = true ∧ s.ports.cmdOp = 0b001#3 ∧ s.len < p.msgMax ∧ t = { s with
      inputs := s.inputs.tail, rspValid := true, rspCode := .ok,
      msg := Memory.store s.msg s.len (encCode (s.ports.code p)), len := s.len + 1, actStb := false,
      actWarn := s.actWarn || s.ports.actErr }) ∨
    (s.ports.cmdValid = true ∧ s.ports.cmdOp = 0b010#3 ∧ t = { s with
      inputs := s.inputs.tail, rspValid := true, rspCode := .ok, len := 0, actStb := false,
      actWarn := s.actWarn || s.ports.actErr }) ∨
    (s.ports.presentsStart = true ∧ s.ports.cmdOp = 0b011#3 ∧ s.len ≠ 0 ∧ t = { s with
      inputs := s.inputs.tail, rspValid := true, rspCode := .ok, state := .running, cursor := 0, slotcnt := 0,
      cancel := false, actStb := false, actWarn := s.ports.actErr }) ∨
    ((s.ports.presentsStart = true → s.len = 0) ∧ ¬ (s.ports.cmdValid = true ∧ s.ports.cmdOp = 0b010#3) ∧
      ¬ (s.ports.cmdValid = true ∧ s.ports.cmdOp = 0b001#3 ∧ s.len ≠ p.msgMax) ∧
      ∃ v c, t = { s with
        inputs := s.inputs.tail, rspValid := v, rspCode := c, cancel := s.cancel || s.ports.presentsCancel,
        actStb := false, actWarn := s.actWarn || s.ports.actErr }) := by
  obtain ⟨u, w, hu, hw, rfl⟩ := (cycle_eq_next hrst).1 h
  rw [fetchOp_eq] at hw
  simp only [hr, if_false, execGen, holdOp_eq] at hw; cases hw
  rcases command_idle_cases (by simpa using hr) hu with ⟨a, b, c, rfl⟩ | ⟨a, b, rfl⟩ | ⟨a, b, c, rfl⟩ |
    ⟨a, b, c, v, c', rfl⟩
  · exact .inl ⟨a, b, c, rfl⟩
  · exact .inr (.inl ⟨a, b, rfl⟩)
  · refine .inr (.inr (.inl ⟨a, b, c, ?_⟩))
    simp [State.beginSession, State.respond, State.noEvent, State.noteActErr, State.beginCycle]
  · exact .inr (.inr (.inr ⟨a, b, c, v, c', rfl⟩))

/-- A cycle outside a session answers a next state where LEN is in its range. -/
theorem cycle_idle_next (hrst : s.ports.rst = false) (hr : s.state ≠ .running) (hl : s.len ≤ p.msgMax) :
    ∃ t, cycle p (execGen p B) L s = .next t := by
  obtain ⟨u, hu⟩ := command_next (p := p) (B := B) (s := s.beginCycle) s.ports hl
  refine ⟨_, (cycle_eq_next hrst).2 ⟨u, u.noEvent, hu, ?_, rfl⟩⟩
  rw [fetchOp_eq]; simp [hr, execGen]

/-- A cycle answers a next state where LEN is in its range (60_exceptions.md R193). -/
theorem stepAt_next (hl : s.len ≤ p.msgMax) : ∃ t, stepAt p s = .next t := by
  cases hrst : s.ports.rst with
  | true => exact ⟨_, cycle_reset hrst⟩
  | false =>
    by_cases hr : s.state = .running
    · exact cycle_running_next hrst hr fun _ _ _ => ⟨_, seqBit_next _ hl⟩
    · exact cycle_idle_next hrst hr hl

end Sys2Proof.Machine
end

