-- ==== Sys2Proof/Laws/PerInstr.lean ====
section
/-! SUPPORT. Statements about every instruction as syntax, one lemma per constructor: a well-formed instruction is
encoded in the format of its row of spec/opcode_table.json, and its word matches the row's match and mask. -/

namespace Sys2Proof.Laws

/-- In the block with the parameters `p`, the encoded word has the format of the instruction's row and matches every row
of its mnemonic. -/
def MatchesTable.Statement (i : Instr) : Prop :=
  ∀ p : Params, i.fits p = true → i.wf = true → (encode i).format = i.format ∧
    ∀ r ∈ cmdRows p.charW ++ schedRows ++ lineRows, r.mnemonic = i.mnemonic →
      r.format = i.format ∧ r.matches (encode i).bits = true

/-- The operation code stands in the three bits above the data of a command word, whatever the data (30_encoding.md
R74). -/
theorem cmdWordOf_and_mask {w : Nat} (op : BitVec 3) (d : BitVec w) :
    (cmdWordOf op d).toNat &&& 7 * 2 ^ w = op.toNat * 2 ^ w := by
  apply Nat.eq_of_testBit_eq
  intro j
  simp only [cmdWordOf, Nat.testBit_and, BitVec.testBit_toNat, BitVec.getLsbD_append, Nat.testBit_mul_two_pow]
  by_cases hj : j < w
  · simp [hj, Nat.not_le.2 hj]
  · have h7 : Nat.testBit 7 (j - w) = decide (j - w < 3) := Nat.testBit_two_pow_sub_one 3 (j - w)
    by_cases h3 : j - w < 3
    · simp [hj, Nat.not_lt.1 hj, h7, h3]
    · simp [hj, h7, h3, BitVec.getLsbD_of_ge op _ (Nat.not_lt.1 h3)]

/-- The one row of a command's mnemonic is the row of its operation code. -/
theorem row_of_command (op : BitVec 3) (d : CharCode) (w : Nat) :
    ∀ r ∈ cmdRows w ++ schedRows ++ lineRows, r.mnemonic = (decodeOp op d).mnemonic →
      r = cmdRow w (decodeOp op d).mnemonic op.toNat := by
  intro r hr
  simp only [cmdRows, schedRows, lineRows, List.cons_append, List.nil_append, List.mem_cons, List.not_mem_nil,
    or_false] at hr
  rcases Machine.op_cases op with rfl | rfl | rfl | rfl | rfl | rfl | rfl | rfl <;>
    rcases hr with rfl | rfl | rfl | rfl | rfl | rfl | rfl | rfl | rfl | rfl | rfl | rfl | rfl | rfl | rfl | rfl | rfl <;>
    simp [decodeOp, Instr.mnemonic, cmdRow]

/-- A command's word is that of its operation code and its data (30_encoding.md R74). -/
theorem encode_decodeOp (op : BitVec 3) (d : CharCode) :
    encode (decodeOp op d) = .cmd d.width (cmdWordOf op d.bits) ∧ (decodeOp op d).codeWidth = some d.width ∧
      (decodeOp op d).format = .cmd := by
  rcases Machine.op_cases op with rfl | rfl | rfl | rfl | rfl | rfl | rfl | rfl <;> exact ⟨rfl, rfl, rfl⟩

/-- Every command's word matches the row of its mnemonic, in a block of its width. -/
theorem MatchesTable.command (op : BitVec 3) (d : CharCode) : MatchesTable.Statement (decodeOp op d) := by
  intro p hfit _
  obtain ⟨he, hc, hf⟩ := encode_decodeOp op d
  have hw : d.width = p.charW := by simpa [Instr.fits, hc] using hfit
  rw [he, hf, ← hw]
  refine ⟨rfl, fun r hr hm => ?_⟩
  rw [row_of_command op d _ r hr hm]
  exact ⟨rfl, beq_iff_eq.2 (cmdWordOf_and_mask op d.bits)⟩

/-- The mnemonics of the commands. -/
def commandMnemonics : List String := ["PUSH", "CLEAR", "START", "CANCEL", "OP0", "OP5", "OP6", "OP7"]

/-- The rows of every other instruction are the same in every block. -/
theorem MatchesTable.notCommand {i : Instr} (hi : i.mnemonic ∉ commandMnemonics)
    (h : i.wf = true → (encode i).format = i.format ∧ ∀ r ∈ schedRows ++ lineRows, r.mnemonic = i.mnemonic →
      r.format = i.format ∧ r.matches (encode i).bits = true) : MatchesTable.Statement i := by
  intro p _ hwf
  refine ⟨(h hwf).1, fun r hr hm => ?_⟩
  rw [List.append_assoc, List.mem_append] at hr
  rcases hr with hr | hr
  · have : (cmdRows p.charW).map Row.mnemonic = commandMnemonics := rfl
    exact absurd (this ▸ hm ▸ List.mem_map_of_mem hr) hi
  · exact (h hwf).2 r hr hm

theorem MatchesTable.push (d : CharCode) : MatchesTable.Statement (.push d) :=
  MatchesTable.command 0b001#3 d

theorem MatchesTable.clear (d : CharCode) : MatchesTable.Statement (.clear d) :=
  MatchesTable.command 0b010#3 d

theorem MatchesTable.start (d : CharCode) : MatchesTable.Statement (.start d) :=
  MatchesTable.command 0b011#3 d

theorem MatchesTable.cancel (d : CharCode) : MatchesTable.Statement (.cancel d) :=
  MatchesTable.command 0b100#3 d

theorem MatchesTable.op0 (d : CharCode) : MatchesTable.Statement (.op0 d) :=
  MatchesTable.command 0b000#3 d

theorem MatchesTable.op5 (d : CharCode) : MatchesTable.Statement (.op5 d) :=
  MatchesTable.command 0b101#3 d

theorem MatchesTable.op6 (d : CharCode) : MatchesTable.Statement (.op6 d) :=
  MatchesTable.command 0b110#3 d

theorem MatchesTable.op7 (d : CharCode) : MatchesTable.Statement (.op7 d) :=
  MatchesTable.command 0b111#3 d

theorem MatchesTable.hold (z e k f : Bool) : MatchesTable.Statement (.hold z e k f) :=
  MatchesTable.notCommand (by simp [Instr.mnemonic, commandMnemonics]) (by revert z e k f; decide)

theorem MatchesTable.finComplete (k f : Bool) : MatchesTable.Statement (.finComplete k f) :=
  MatchesTable.notCommand (by simp [Instr.mnemonic, commandMnemonics]) (by revert k f; decide)

theorem MatchesTable.finCancel (f : Bool) : MatchesTable.Statement (.finCancel f) :=
  MatchesTable.notCommand (by simp [Instr.mnemonic, commandMnemonics]) (by revert f; decide)

theorem MatchesTable.emit (f : Bool) : MatchesTable.Statement (.emit f) :=
  MatchesTable.notCommand (by simp [Instr.mnemonic, commandMnemonics]) (by revert f; decide)

theorem MatchesTable.finInterrupt (e k : Bool) : MatchesTable.Statement (.finInterrupt e k) :=
  MatchesTable.notCommand (by simp [Instr.mnemonic, commandMnemonics]) (by revert e k; decide)

theorem MatchesTable.wait (e k : Bool) : MatchesTable.Statement (.wait e k) :=
  MatchesTable.notCommand (by simp [Instr.mnemonic, commandMnemonics]) (by revert e k; decide)

theorem MatchesTable.charFrame (d : Byte) (q : Bool) : MatchesTable.Statement (.charFrame d q) := by
  refine MatchesTable.notCommand (by simp [Instr.mnemonic, commandMnemonics]) fun _ => ⟨rfl, fun r hr hm => ?_⟩
  have : ∀ r ∈ schedRows ++ lineRows, r.mnemonic ≠ "CHARFRAME" := by decide
  exact absurd hm (this r hr)

theorem MatchesTable.startMarker : MatchesTable.Statement (.startMarker) :=
  MatchesTable.notCommand (by decide) (by decide)

theorem MatchesTable.stopMarker : MatchesTable.Statement (.stopMarker) :=
  MatchesTable.notCommand (by decide) (by decide)

theorem MatchesTable.padFrame : MatchesTable.Statement (.padFrame) :=
  MatchesTable.notCommand (by decide) (by decide)

end Sys2Proof.Laws
end

