-- ==== Sys2Proof/Laws/Run.lean ====
section
/-! SUPPORT. Runs of several cycles: how `runFor` and `traceFor` compose, and how the inputs to come move on. -/

namespace Sys2Proof.Machine

variable {f : State → Result} {k m : Nat} {s t u : State}

/-- A run is peeled from its last cycle. -/
theorem runFor_succ (f : State → Result) (k : Nat) (s : State) : runFor f (k + 1) s = andThen (runFor f k s) f := by
  induction k generalizing s with
  | zero => simp [runFor]; cases f s <;> rfl
  | succ k ih =>
    rw [runFor]
    conv_rhs => rw [runFor]
    cases h : f s with
    | next t => simpa using ih t
    | fault _ => rfl
    | refused _ => rfl

/-- One more cycle after a run. -/
theorem runFor_succ_next (h : runFor f k s = .next t) (h2 : f t = .next u) : runFor f (k + 1) s = .next u := by
  rw [runFor_succ, h]; exact h2

/-- A run after a run. -/
theorem runFor_add (h : runFor f k s = .next t) : runFor f (k + m) s = runFor f m t := by
  induction m with
  | zero => simpa [runFor] using h
  | succ m ih => rw [← Nat.add_assoc, runFor_succ, ih, runFor_succ]

/-- The trace of a run after a run. -/
theorem traceFor_add (h : runFor f k s = .next t) : traceFor f (k + m) s = traceFor f k s ++ traceFor f m t := by
  induction k generalizing s with
  | zero => simp [runFor] at h; subst h; simp [traceFor]
  | succ k ih =>
    simp only [runFor] at h
    obtain ⟨u, hu, h⟩ := andThen_eq_next.1 h
    rw [Nat.add_right_comm, traceFor, traceFor, hu]
    simp [ih h]

/-- The trace of one cycle. -/
theorem traceFor_one (h : f s = .next t) : traceFor f 1 s = eventOf t := by
  simp [traceFor, h]

/-- The ports of the next cycle are the first of those to come. -/
theorem portsAt_zero (s : State) : s.portsAt 0 = s.ports := by
  unfold State.portsAt State.ports; cases s.inputs <;> rfl

/-- The ports to come move on with the cycles. -/
theorem portsAt_drop (h : t.inputs = s.inputs.drop k) (j : Nat) : t.portsAt j = s.portsAt (k + j) := by
  simp [State.portsAt, h, List.getD_eq_getElem?_getD, List.getElem?_drop]

end Sys2Proof.Machine
end

