-- ==== Sys2Proof/Tests/Slice0.lean ====
section
/-! SUPPORT. The session's own tests: the smoke tests of WellFormed, a word of every row written out from the spec's
encodings, single steps of 95_test_vectors.md, and for every statement with hypotheses a state that meets them. -/

namespace Sys2Proof.Tests

open Sys2Proof.Machine

/-! ### WellFormed: a term that each check refuses -/

/-- The source's slip `010000011` (95_test_vectors.md S1): the parity of 0x41 is 0. -/
theorem test_wf_refuses_wrong_parity : parityHolds 0x41 true = false ∧ (Instr.charFrame 0x41 true).wf = false := by decide

/-- The pad's pattern is the row PADFRAME's. -/
theorem test_wf_refuses_pad_as_charframe :
    notPadPattern 0x20 = false ∧ parityHolds 0x20 true = true ∧ (Instr.charFrame 0x20 true).wf = false := by decide

/-- A character code of 16 bits, as in spec/opcode_table.json. -/
def code16 (n : Nat) : CharCode := ⟨16, BitVec.ofNat 16 n⟩

theorem test_wf_accepts : (Instr.charFrame 0x41 false).wf = true ∧ Instr.padFrame.wf = true ∧
    (Instr.push (code16 0xFFFF)).wf = true := by decide

/-! ### Decoding: a word of every row, written out from 30_encoding.md and 95_test_vectors.md -/

theorem test_decode_push : decodeTableWord 24 0b0010000000101000001 = some (.push (code16 0x0141)) := by decide
theorem test_decode_clear : decodeTableWord 24 0b0101010101111001101 = some (.clear (code16 0xABCD)) := by decide
theorem test_decode_start : decodeTableWord 24 0b0110000000000000000 = some (.start (code16 0)) := by decide
theorem test_decode_cancel : decodeTableWord 24 0b1000000000000000000 = some (.cancel (code16 0)) := by decide
theorem test_decode_op0 : decodeTableWord 24 0b0000000000000000001 = some (.op0 (code16 1)) := by decide
theorem test_decode_op5 : decodeTableWord 24 0b1010000000000000000 = some (.op5 (code16 0)) := by decide
theorem test_decode_op6 : decodeTableWord 24 0b1100000000000000000 = some (.op6 (code16 0)) := by decide
theorem test_decode_op7 : decodeTableWord 24 0b1111111111111111111 = some (.op7 (code16 0xFFFF)) := by decide
/-- 30_encoding.md R74 in blocks with `CHAR_W` 8 and 9: PUSH 0x41, PUSH 0x141, START. -/
theorem test_decode_other_widths : decode (.cmd 8 0b00101000001) = .instr (.push ⟨8, 0x41⟩) ∧
    decode (.cmd 9 0b001101000001) = .instr (.push ⟨9, 0x141⟩) ∧
    decode (.cmd 8 0b01100000000) = .instr (.start ⟨8, 0⟩) := by decide
/-- The match and the mask of the CMD rows, as spec/opcode_table.json has them. -/
theorem test_cmdRows_table : (cmdRows 16).map (fun r => (r.mnemonic, r.matchBits, r.maskBits)) =
    [("PUSH", 0x10000, 0x70000), ("CLEAR", 0x20000, 0x70000), ("START", 0x30000, 0x70000),
     ("CANCEL", 0x40000, 0x70000), ("OP0", 0x00000, 0x70000), ("OP5", 0x50000, 0x70000), ("OP6", 0x60000, 0x70000),
     ("OP7", 0x70000, 0x70000)] := by decide
/-- V73: `z = 1`, `e = 1`, `k = 0`, `f = 1`. -/
theorem test_decode_hold : decodeTableWord 8 0b01101 = some (.hold true true false true) := by decide
/-- V68: `k = 1`, `f = 0`. -/
theorem test_decode_finComplete : decodeTableWord 8 0b11110 = some (.finComplete true false) := by decide
/-- V66. -/
theorem test_decode_finCancel : decodeTableWord 8 0b11010 = some (.finCancel false) := by decide
/-- V61. -/
theorem test_decode_emit : decodeTableWord 8 0b11001 = some (.emit true) := by decide
/-- V72: `e = 1`, `k = 0`. -/
theorem test_decode_finInterrupt : decodeTableWord 8 0b10101 = some (.finInterrupt true false) := by decide
/-- V65: `e = 0`, `k = 1`. -/
theorem test_decode_wait : decodeTableWord 8 0b10010 = some (.wait false true) := by decide
/-- V15: the frame of 0xE9. -/
theorem test_decode_charFrame : decodeTableWord 16 0b111010011 = some (.charFrame 0xE9 true) := by decide
/-- V4: the frame of the pad. -/
theorem test_decode_padFrame : decodeTableWord 16 0b001000001 = some .padFrame := by decide
theorem test_decode_startMarker : decodeTableWord 16 0b111111111111 = some .startMarker := by decide
theorem test_decode_stopMarker : decodeTableWord 16 0b000000000000 = some .stopMarker := by decide
/-- No Character Frame has an odd number of ones, and twelve mixed symbols are no marker. -/
theorem test_decode_refuses : decode (.frame 0b010000011) = .rejected .oddParity ∧
    decode (.frame 0b111111111) = .rejected .oddParity ∧ decode (.marker 0b111111111110) = .rejected .notMarker ∧
    decodeTableWord 8 0b100000 = none := by decide

/-! ### The encoder and the assembler -/

/-- The buffer `[0x41]` ("A") and the registers of a vector of 95_test_vectors.md section 2.4. -/
def vector (state : Session) (cursor slotcnt : Nat) (cancel : Bool) (act : Symbol) (inputs : List PortIn) : State :=
  { State.reset with
    state := state, cursor := cursor, slotcnt := slotcnt, cancel := cancel, act := act, inputs := inputs, len := 1,
    msg := [(0, 0x41)] }

/-- V18 and V17: truncation, and the frame of 0xFF. -/
theorem test_frames : encFrame (encCode 0x0141#16) = [false, true, false, false, false, false, false, true, false] ∧
    encFrame 0xFF = [true, true, true, true, true, true, true, true, false] := by decide

/-- V21: the probes of SEQ_BIT at 11, 12, 13, 20, 23, 29, 30 and 41. -/
theorem test_seqBit_probes : [11, 12, 13, 20, 23, 29, 30, 41].map
      (fun i => (asmFrame (vector .idle 0 0 false false []))[i]?) =
    [some true, some false, some true, some false, some true, some true, some false, some false] := by decide

/-- 40_encoder.md R108 at the same indices. -/
theorem test_seqBit_reads : seqBit Config.reference (vector .idle 0 0 false false []) 13 = .next true ∧
    seqBit Config.reference (vector .idle 0 0 false false []) 23 = .next true ∧
    seqBit Config.reference (vector .idle 0 0 false false []) 20 = .next false := ⟨rfl, rfl, rfl⟩

/-! ### Single steps of 95_test_vectors.md in the reference configuration -/

/-- The registers that the vectors name, in the order of 95_test_vectors.md. -/
structure Registers where
  state : Session
  cursor : Nat
  slotcnt : Nat
  cancel : Bool
  len : Nat
  act : Bool
  actStb : Bool
  actWarn : Bool
  deriving DecidableEq, Repr

/-- The registers after a step or a meaning. -/
def registers : Result → Option Registers
  | .next t => some ⟨t.state, t.cursor, t.slotcnt, t.cancel, t.len, t.act, t.actStb, t.actWarn⟩
  | .fault _ => none
  | .refused _ => none

/-- The response that a step leaves. -/
def response : Result → Option (Bool × RspCode)
  | .next t => some (t.rspValid, t.rspCode)
  | .fault _ => none
  | .refused _ => none

/-- The ports of a cycle with a command. -/
def command (op : BitVec 3) (d : Nat) : PortIn := PortIn.quiet.command op d

/-- The ports of a cycle with `wait_fault`. -/
def waitFault : PortIn := { PortIn.quiet with waitFault := true }

/-- V31: PUSH 0x0141 after one character stores 0x41. -/
theorem test_push_V31 : (match step (vector .idle 0 0 false false [command 0b001 0x0141]) with
    | .next t => some (t.len, t.msg, t.rspCode) | _ => none) = some (2, [(0, 0x41), (1, 0x41)], .ok) := by decide

/-- V32 and V36: Overflow in a full buffer, and Busy before Overflow. -/
theorem test_push_V32_V36 :
    response (step { vector .idle 0 0 false false [command 0b001 0x41] with len := 255 }) = some (true, .overflow) ∧
    response (step { vector .running 0 0 false false [command 0b001 0x41] with len := 255 }) = some (true, .busy) := by
  decide

/-- V38: CLEAR after a cancelled session keeps STATE, CURSOR and CANCEL. -/
theorem test_clear_V38 : registers (step { vector .cancelled 7 0 true false [command 0b010 0xABCD] with len := 5 }) =
    some ⟨.cancelled, 7, 0, true, 0, false, false, false⟩ := by decide

/-- V44: an accepted START clears CURSOR, CANCEL and ACT_WARN. -/
theorem test_start_V44 :
    registers (step { vector .cancelled 3 0 true false [command 0b011 0] with len := 2, actWarn := true }) =
      some ⟨.running, 0, 0, false, 2, false, false, false⟩ := by decide

/-- V45 and V46: a START in a session leaves CANCEL set; with an empty buffer it is InvalidInput. -/
theorem test_start_V45_V46 : registers (step (vector .running 13 2 true false [command 0b011 0])) =
      some ⟨.running, 13, 1, true, 1, false, false, false⟩ ∧
    response (step { vector .completed 42 0 false false [command 0b011 0] with len := 0 }) =
      some (true, .invalidInput) := by decide

/-- V50: CANCEL in a terminal state. -/
theorem test_cancel_V50 : registers (step (vector .interrupted 2 0 false false [command 0b100 0])) =
    some ⟨.interrupted, 2, 0, true, 1, false, false, false⟩ := by decide

/-- V51: the reserved codes. -/
theorem test_op0_V51 : exec (.op0 (code16 0)) State.reset = .next (State.reset.respond .illegalCmd) := rfl
theorem test_op5_V51 : exec (.op5 (code16 0)) State.reset = .next (State.reset.respond .illegalCmd) := rfl
theorem test_op6_V51 : exec (.op6 (code16 0)) State.reset = .next (State.reset.respond .illegalCmd) := rfl
theorem test_op7_V51 : exec (.op7 (code16 0xFFFF)) State.reset = .next (State.reset.respond .illegalCmd) := rfl

/-- V52 and V53: no command, and a command lost to reset. -/
theorem test_response_V52_V53 :
    response (step (vector .idle 0 0 false false [{ PortIn.quiet with cmdOp := 0b011 }])) = some (false, .ok) ∧
    response (step (vector .idle 0 0 false false [{ command 0b011 0 with rst := true }])) = some (false, .ok) := by
  decide

/-- V61: EMIT at a boundary, the fault ignored. -/
theorem test_emit_V61 : registers (step (vector .running 0 0 false false [waitFault])) =
    some ⟨.running, 1, 99, false, 1, true, true, false⟩ := by decide

/-- V62: EMIT of SEQ_BIT(12). -/
theorem test_emit_V62 : registers (step (vector .running 12 0 false true [])) =
    some ⟨.running, 13, 99, false, 1, false, true, false⟩ := by decide

/-- V65: WAIT does not look at CANCEL. -/
theorem test_wait_V65 : registers (step (vector .running 13 1 true false [])) =
    some ⟨.running, 13, 0, true, 1, false, false, false⟩ := by decide

/-- V66: FIN_CANCEL. -/
theorem test_finCancel_V66 : registers (step (vector .running 13 0 true true [])) =
    some ⟨.cancelled, 13, 0, true, 1, false, true, false⟩ := by decide

/-- V69: FIN_COMPLETE before the cancel test, the fault ignored. -/
theorem test_finComplete_V69 : registers (step (vector .running 42 0 true false [waitFault])) =
    some ⟨.completed, 42, 0, true, 1, false, true, false⟩ := by decide

/-- V71 and V72: FIN_INTERRUPT before the cancel test, and in the last slot. -/
theorem test_finInterrupt_V71_V72 :
    registers (step (vector .running 2 57 true true [waitFault])) =
      some ⟨.interrupted, 2, 0, true, 1, false, true, false⟩ ∧
    registers (step (vector .running 42 3 false false [waitFault])) =
      some ⟨.interrupted, 42, 0, false, 1, false, true, false⟩ := by decide

/-- V74: HOLD. -/
theorem test_hold_V74 : registers (step (vector .idle 0 0 true false [waitFault])) =
    some ⟨.idle, 0, 0, true, 1, false, false, false⟩ := by decide

/-- CHARFRAME of 0x41 at sequence index 13: its second symbol is 1 (V21). -/
theorem test_charFrame : registers (exec (.charFrame 0x41 false) (vector .running 13 0 false false [])) =
    some ⟨.running, 14, 99, false, 1, true, true, false⟩ := by decide

/-- PADFRAME at index 29: the parity of the pad is 1 (V21). -/
theorem test_padFrame : registers (exec .padFrame (vector .running 29 0 false false [])) =
    some ⟨.running, 30, 99, false, 1, true, true, false⟩ := by decide

/-- The first symbol of the start marker is 1, the last of the stop marker 0 (V21). -/
theorem test_markers : registers (exec .startMarker (vector .running 0 0 false false [])) =
      some ⟨.running, 1, 99, false, 1, true, true, false⟩ ∧
    registers (exec .stopMarker (vector .running 41 0 false true [])) =
      some ⟨.running, 42, 99, false, 1, false, true, false⟩ := by decide

/-- V85: `act_err` wins over the clear of an accepted START. -/
theorem test_actErr_V85 : registers (step (vector .idle 0 0 false false [{ command 0b011 0 with actErr := true }])) =
    some ⟨.running, 0, 0, false, 1, false, false, true⟩ := by decide

/-- V90: reset wins over everything, and the cells stay. -/
theorem test_reset_V90 : step { vector .running 7 42 true true
      [{ rst := true, cmdValid := true, cmdOp := 0b100, cmdData := 0, waitFault := true, actErr := true }] with
      len := 3, actWarn := true } = .next { State.reset with msg := [(0, 0x41)] } := rfl

/-- A word placed by the host runs: PUSH 0x0041 (V30). -/
theorem test_withFetchWord_push : step (State.reset.withFetchWord 24 0x10041) =
    .next { State.reset with msg := [(0, 0x41)], len := 1, rspValid := true } := rfl

/-- P3, cycle 3: two script lines of one cycle drive different ports. -/
theorem test_script : scriptPorts [⟨2, .start⟩, ⟨3, .push 0x42⟩, ⟨3, .waitFault⟩] 3 =
    { command 0b001 0x42 with waitFault := true } := by decide

/-! ### Witnesses: a state and operands that meet the hypotheses of each statement -/

/-- A small block: two cycles a slot, two characters, codes of 9 bits. -/
def small : Params := { slotTicks := 2, msgMax := 2, charW := 9 }

theorem small_ok : small.Ok := by decide

/-- `act_err`, in a cycle with the command `op`. -/
def report (op : BitVec 3) : PortIn := { command op 0x41 with actErr := true }

/-- One state for each thing that a cycle can do: a reset; in a session the five operations; outside it START, CLEAR,
PUSH below and at the capacity, CANCEL, a reserved code, no command. -/
def cycles : List State :=
  [vector .running 7 1 true true [{ waitFault with rst := true }],
   vector .running 41 0 false false [report 0b100], vector .running 42 0 true false [command 0b010 0],
   vector .running 41 0 true true [], vector .running 42 1 false false [waitFault],
   vector .running 1 1 false true [command 0b001 0x42], vector .idle 0 0 true false [report 0b011],
   vector .completed 42 0 false false [command 0b010 0], vector .idle 0 0 false false [command 0b001 0x0142],
   { vector .idle 0 0 false false [command 0b001 0x42] with len := 2, msg := [(0, 0x4F), (1, 0x4B)] },
   { State.reset with inputs := [command 0b011 0] }, vector .idle 0 0 false false [command 0b111 0],
   vector .interrupted 2 0 false false []]

/-- Each of these cycles answers a next state. -/
theorem cycles_answer : ∀ s ∈ cycles, ∃ t, stepAt small s = .next t := by
  simp only [cycles, List.forall_mem_cons]
  exact ⟨⟨_, rfl⟩, ⟨_, rfl⟩, ⟨_, rfl⟩, ⟨_, rfl⟩, ⟨_, rfl⟩, ⟨_, rfl⟩, ⟨_, rfl⟩, ⟨_, rfl⟩, ⟨_, rfl⟩, ⟨_, rfl⟩, ⟨_, rfl⟩,
    ⟨_, rfl⟩, ⟨_, rfl⟩, by simp⟩

theorem test_witness_DecodeOfEncodeIsTheInstruction :
    (Instr.charFrame 0xFF false).wf = true ∧ (Instr.hold true true true true).wf = true := by decide

theorem test_witness_EncodeOfDecodeIsTheWord : decode (.frame 0b111111110) = .instr (.charFrame 0xFF false) ∧
    decode (.cmd 16 0x7FFFF) = .instr (.op7 (code16 0xFFFF)) := by decide

/-- One word of each format; a command word of the reference width and one of the small block's. -/
theorem test_witness_PlacedWordIsRunByTheNextStep : decode (.cmd 16 0x30000) = .instr (.start (code16 0)) ∧
    (Instr.start (code16 0)).fits Config.reference = true ∧ decode (.cmd 9 0x341) = .instr (.push ⟨9, 0x141⟩) ∧
    (Instr.push ⟨9, 0x141⟩).fits small = true ∧ Instr.stopMarker.fits small = true ∧
    decode (.sched 0b11100) = .instr (.finComplete false false) ∧
    decode (.frame 0b000000000) = .instr (.charFrame 0 false) ∧ decode (.frame 0b001000001) = .instr .padFrame ∧
    decode (.marker 0) = .instr .stopMarker := by decide

/-- The full buffer of the reference configuration. -/
theorem test_witness_SequenceLengthLaw :
    { State.reset with len := 255 }.len ≤ Config.reference.msgMax ∧ seqLen { State.reset with len := 255 } = 2328 := by
  decide

/-- The first and the last index of each part of the sequence of "A". -/
theorem test_witness_SeqBitReadsTheTransmissionFrame : (vector .idle 0 0 false false []).len ≤ small.msgMax ∧
    ∀ i ∈ [0, 11, 12, 20, 21, 29, 30, 41], i < seqLen (vector .idle 0 0 false false []) := by decide

/-- Two buffers that differ in a dead cell. -/
theorem test_witness_SequenceDependsOnLiveCellsOnly :
    ∀ j < 1, Memory.cell [(0, 0x41)] j = Memory.cell [(0, 0x41), (1, 0x42)] j := by
  intro j hj; interval_cases j; rfl

/-- The last cell, the cell before it, and a size of two. -/
theorem test_witness_CellWriteThenRead : 254 < Config.reference.msgMax ∧ 253 < Config.reference.msgMax ∧ 2 ≠ 1 := by
  decide

/-- In a session, with the last cell free, and with a full buffer, in `exec`'s configuration and in the small one. -/
theorem test_witness_PushResult : (vector .running 0 0 false false []).len ≤ Config.reference.msgMax ∧
    { State.reset with len := 254 }.len ≤ Config.reference.msgMax ∧
    { State.reset with len := 255 }.len ≤ Config.reference.msgMax ∧ { State.reset with len := 2 }.len ≤ small.msgMax := by
  decide

theorem test_witness_ReservedCodesResult : (command 0b101 0).rst = false ∧ (command 0b101 0).cmdValid = true ∧
    (command 0b101 0).cmdOp = 0b101 := by decide

/-- A refused command of each response code. -/
theorem test_witness_RefusedCommandChangesNoRegister : (Instr.start (code16 0)).format = .cmd ∧
    response (exec (.start (code16 0)) State.reset) = some (true, .invalidInput) ∧
    response (exec (.clear (code16 0)) (vector .running 0 0 false false [])) = some (true, .busy) ∧
    response (exec (.push (code16 0)) { State.reset with len := 255 }) = some (true, .overflow) ∧
    response (exec (.op6 (code16 0)) State.reset) = some (true, .illegalCmd) := by decide

/-- Responses of every kind, and none: the numbers of 30_encoding.md R75 for the commands of `cycles`. -/
theorem test_rspCode_numbers :
    cycles.map (fun s => (outputs small s).rspCode) = [0, 0, 2, 0, 0, 2, 0, 0, 0, 3, 1, 4, 0] := by decide

theorem test_witness_ResponsePorts : ∀ s ∈ cycles, ∃ t, stepAt small s = .next t := cycles_answer

/-- The first and the last symbol of the sequence of "A". -/
theorem test_witness_EmitResult : (vector .running 41 0 false false []).len ≤ Config.reference.msgMax ∧
    (vector .running 0 0 false false []).cursor < seqLen (vector .running 0 0 false false []) ∧
    (vector .running 41 0 false false []).cursor < seqLen (vector .running 41 0 false false []) := by decide

theorem test_witness_WaitResult : (vector .running 13 1 true false []).slotcnt ≠ 0 := by decide

/-- The first and the last index of each line format. -/
theorem test_witness_EmitRunsTheLineFormatAtTheCursor : ∀ i ∈ [0, 11, 12, 20, 21, 29, 30, 41],
    (vector .running i 0 false false []).len ≤ Config.reference.msgMax ∧
    (vector .running i 0 false false []).cursor < seqLen (vector .running i 0 false false []) := by decide

/-- A START at the command port and HOLD as the operation. -/
theorem test_witness_StepRunsTheDecodedInstructions :
    (vector .idle 0 0 false false [command 0b011 0]).ports.rst = false ∧
    decode (.cmd 16 ((vector .idle 0 0 false false [command 0b011 0]).ports.commandWord Config.reference)) =
      .instr (.start (code16 0)) ∧
    decode (.sched (dispatchVector (seqLen (vector .idle 0 0 false false [command 0b011 0]))
      (vector .idle 0 0 false false [command 0b011 0])
      (vector .idle 0 0 false false [command 0b011 0]).ports.waitFault)) = .instr (.hold true false false false) := by
  decide

/-- Each of the six selections, a command presented or not. -/
theorem test_witness_SchedulerSelection : ∀ s ∈ cycles.tail, s.ports.rst = false := by decide

/-- CANCEL with EMIT at the last symbol, and an accepted START with HOLD. -/
theorem test_witness_StepIsTheUnionOfPreStateWrites :
    ∀ s ∈ [vector .running 41 0 false false [report 0b100], vector .idle 0 0 true false [report 0b011]],
      s.ports.rst = false ∧
      (∃ c, commandPart (execGen small (seqBit small s)) (fetchCommand small s.ports) s.beginCycle = .next c) ∧
      ∃ o, execGen small (seqBit small s) (fetchOp (seqLen s) s s.ports) s.beginCycle = .next o := by
  simp only [List.forall_mem_cons]
  exact ⟨⟨rfl, ⟨_, rfl⟩, ⟨_, rfl⟩⟩, ⟨rfl, ⟨_, rfl⟩, ⟨_, rfl⟩⟩, by simp⟩

/-- One reset cycle, and two in a row. -/
theorem test_witness_ResetCycle :
    (vector .running 7 42 true true [{ PortIn.quiet with rst := true }]).ports.rst = true ∧
    ∃ t, step (vector .running 7 42 true true [{ PortIn.quiet with rst := true }, { PortIn.quiet with rst := true }]) =
      .next t ∧ t.ports.rst = true := ⟨rfl, _, rfl, rfl⟩

theorem test_witness_StateNext : ∀ s ∈ cycles, ∃ t, stepAt small s = .next t := cycles_answer
theorem test_witness_CursorNext : ∀ s ∈ cycles, ∃ t, stepAt small s = .next t := cycles_answer
theorem test_witness_SlotcntNext : ∀ s ∈ cycles, ∃ t, stepAt small s = .next t := cycles_answer
theorem test_witness_CancelNext : ∀ s ∈ cycles, ∃ t, stepAt small s = .next t := cycles_answer
theorem test_witness_MessageNext : ∀ s ∈ cycles, ∃ t, stepAt small s = .next t := cycles_answer
theorem test_witness_ActuatorNext : ∀ s ∈ cycles, ∃ t, stepAt small s = .next t := cycles_answer
theorem test_witness_ActWarnNext : ∀ s ∈ cycles, ∃ t, stepAt small s = .next t := cycles_answer
theorem test_witness_ConditionsHaveTheirCauses : ∀ s ∈ cycles, ∃ t, stepAt small s = .next t := cycles_answer

theorem test_witness_ActErrChangesOnlyActWarn : (command 0b011 0).rst = false := by decide

/-- Inside a slot, and at the boundary after the last symbol. -/
theorem test_witness_CancelNotLookedAtElsewhere :
    ∀ s ∈ [vector .running 13 1 false false [command 0b100 0], vector .running 42 0 false false [command 0b100 0]],
      s.ports.rst = false ∧ s.state = .running ∧ (s.slotcnt ≠ 0 ∨ s.cursor = seqLen s) ∧
        ∃ t, stepAt small s = .next t := by
  simp only [List.forall_mem_cons]
  exact ⟨⟨rfl, rfl, .inl (by decide), _, rfl⟩, ⟨rfl, rfl, .inr rfl, _, rfl⟩, by simp⟩

/-- The empty generic sequence (V75) with CANCEL pending. -/
theorem test_witness_NoCancellationAfterTheLastSymbol : (vector .running 0 0 true false []).ports.rst = false ∧
    (vector .running 0 0 true false []).cursor = 0 ∧ (vector .running 0 0 true false []).slotcnt = 0 ∧
    ∃ t, stepGeneric small 0 (fun _ => true) (vector .running 0 0 true false []) = .next t := ⟨rfl, rfl, rfl, _, rfl⟩

/-- The three ends, and one with a CANCEL command and a report in its cycle. -/
theorem test_witness_SessionEndPostcondition :
    ∀ s ∈ [vector .running 42 0 true false [command 0b010 0], vector .running 41 0 true true [],
      vector .running 42 1 false false [waitFault], vector .running 42 0 false false [report 0b100]],
      s.state = .running ∧ ∃ t, stepAt small s = .next t ∧ t.state.terminal = true := by
  simp only [List.forall_mem_cons]
  exact ⟨⟨rfl, _, rfl, rfl⟩, ⟨rfl, _, rfl, rfl⟩, ⟨rfl, _, rfl, rfl⟩, ⟨rfl, _, rfl, rfl⟩, by simp⟩

/-- A PUSH and a CLEAR in a session. -/
theorem test_witness_RunningLock :
    ∀ s ∈ [vector .running 1 1 false true [command 0b001 0x42], vector .running 42 0 true false [command 0b010 0]],
      s.state = .running ∧ s.ports.rst = false ∧ s.ports.cmdValid = true ∧ ∃ t, stepAt small s = .next t := by
  simp only [List.forall_mem_cons]
  exact ⟨⟨rfl, rfl, rfl, _, rfl⟩, ⟨rfl, rfl, rfl, _, rfl⟩, by simp⟩

/-- The invariants of a state are decided field by field. -/
theorem inv_running : Inv small (vector .running 12 0 false true []) := by constructor <;> decide

theorem inv_lastSlot : Inv small (vector .running 42 1 true false [waitFault]) := by constructor <;> decide

theorem inv_boundary (is : List PortIn) : Inv small (vector .running 41 0 false false is) := by
  constructor <;> simp [vector, State.reset, small, seqLen, Params.lMax, Memory.stored]

theorem inv_idle (is : List PortIn) : Inv small (vector .idle 0 0 false false is) := by
  constructor <;> simp [vector, State.reset, small, Memory.stored]

theorem test_witness_StatusOutputs : Inv small (vector .running 42 1 true false [waitFault]) := inv_lastSlot

/-- A session inside its last slot, in the small configuration and in the reference one. -/
theorem test_witness_EveryStepKeepsTheInvariants : small.Ok ∧ Inv small (vector .running 42 1 true false [waitFault]) ∧
    (∃ t, stepAt small (vector .running 42 1 true false [waitFault]) = .next t) ∧
    Inv Config.reference (vector .running 42 99 true false [waitFault]) ∧
    ∃ t, step (vector .running 42 99 true false [waitFault]) = .next t :=
  ⟨small_ok, inv_lastSlot, ⟨_, rfl⟩, by constructor <;> decide, _, rfl⟩

theorem test_witness_EveryStepKeepsTheSessionInvariants : small.Ok ∧ Inv small (vector .running 12 0 false true []) ∧
    SessionInv small (vector .running 12 0 false true []) ∧
    ∃ t, stepAt small (vector .running 12 0 false true []) = .next t :=
  ⟨small_ok, inv_running,
    { level := fun _ _ => rfl, fresh := fun _ h => absurd h (by decide), ended := fun h => absurd h (by decide) }, _, rfl⟩

theorem test_witness_NoConditionStopsTheBlock : small.Ok ∧ Inv small (vector .running 42 1 true false [waitFault]) :=
  ⟨small_ok, inv_lastSlot⟩

theorem test_witness_CountersFitTheirWidths : small.Ok ∧ Inv small (vector .running 42 1 true false [waitFault]) :=
  ⟨small_ok, inv_lastSlot⟩

/-- Two buffers that differ in a dead cell, at the first data symbol. -/
theorem test_witness_DeadCellsAreUnobservable :
    SameVisible (vector .running 12 0 false true [])
      { vector .running 12 0 false true [] with msg := [(0, 0x41), (1, 0x42)] } ∧
    ∃ u, stepAt small (vector .running 12 0 false true []) = .next u :=
  ⟨{ state_eq := rfl, cursor_eq := rfl, slotcnt_eq := rfl, cancel_eq := rfl, len_eq := rfl, act_eq := rfl,
     actStb_eq := rfl, actWarn_eq := rfl, rspValid_eq := rfl, rspCode_eq := rfl, inputs_eq := rfl,
     cells_eq := test_witness_SequenceDependsOnLiveCellsOnly }, _, rfl⟩

/-- START from a cancelled session, a CANCEL and a fault in the next cycle; the same on a sequence of one symbol. -/
theorem test_witness_FirstOperationSendsTheFirstSymbol :
    ∃ s t u, s = vector .cancelled 3 0 true false [command 0b011 0, { command 0b100 0 with waitFault := true }] ∧
      s.state ≠ .running ∧ s.ports.rst = false ∧ s.ports.presentsStart = true ∧ s.len ≠ 0 ∧
      stepAt small s = .next t ∧ t.ports.rst = false ∧ stepAt small t = .next u ∧
      stepGeneric small 1 (fun _ => false) s = .next t ∧
      ∃ v, stepGeneric small 1 (fun _ => false) t = .next v :=
  ⟨_, _, _, rfl, by decide, rfl, rfl, by decide, rfl, rfl, rfl, rfl, _, rfl⟩

/-- The last symbol, a CANCEL in each cycle of the slot and a fault in its first; with slots of two cycles and of one
cycle. -/
theorem test_witness_SlotIsExactlySlotTicksCycles :
    ∃ s, s = vector .running 41 0 false false [{ command 0b100 0 with waitFault := true }, command 0b100 0] ∧
      small.Ok ∧ Inv small s ∧ s.state = .running ∧ s.slotcnt = 0 ∧ s.cursor < seqLen s ∧ s.cancel = false ∧
      (∀ j < small.slotTicks, (s.portsAt j).rst = false ∧ (0 < j → (s.portsAt j).waitFault = false)) ∧
      Inv { slotTicks := 1, msgMax := 1, charW := 8 } s :=
  ⟨_, rfl, small_ok, inv_boundary _, rfl, rfl, by decide, rfl, by decide, by constructor <;> decide⟩

/-- No input after the first cycle's START. -/
theorem portsAt_after_start (j : Nat) (h : 1 ≤ j) :
    (vector .idle 0 0 false false [command 0b011 0]).portsAt j = PortIn.quiet := by
  obtain ⟨k, rfl⟩ : ∃ k, j = k + 1 := ⟨j - 1, by omega⟩
  rfl

theorem test_witness_CompletedSessionSendsTheTransmissionFrame :
    ∃ s, s = vector .idle 0 0 false false [command 0b011 0] ∧ small.Ok ∧ Inv small s ∧ s.state ≠ .running ∧
      1 ≤ s.len ∧ (s.portsAt 0).rst = false ∧ (s.portsAt 0).presentsStart = true ∧
      ∀ j, 1 ≤ j → j ≤ 1 + seqLen s * small.slotTicks →
        (s.portsAt j).rst = false ∧ (s.portsAt j).waitFault = false ∧ (s.portsAt j).presentsCancel = false :=
  ⟨_, rfl, small_ok, inv_idle _, by decide, by decide, rfl, rfl,
    fun j h _ => by rw [portsAt_after_start j h]; decide⟩

/-- Three symbols: a CANCEL in the first cycle of the second slot, and one in the last cycle of the first. -/
theorem test_witness_CancelledSessionSendsAPrefix :
    (∃ s, s = vector .running 0 0 false false [PortIn.quiet, PortIn.quiet, command 0b100 0] ∧ small.Ok ∧
      s.state = .running ∧ s.cursor = 0 ∧ s.slotcnt = 0 ∧ s.cancel = false ∧ 1 ≤ 2 ∧ 2 < 3 ∧
      (∀ j ≤ 2 * small.slotTicks, (s.portsAt j).rst = false ∧ (s.portsAt j).waitFault = false) ∧
      (∀ j < (2 - 1) * small.slotTicks, (s.portsAt j).presentsCancel = false) ∧
      ∃ j, (2 - 1) * small.slotTicks ≤ j ∧ j < 2 * small.slotTicks ∧ (s.portsAt j).presentsCancel = true) ∧
    ∃ s, s = vector .running 0 0 false false [PortIn.quiet, command 0b100 0] ∧
      (∀ j ≤ 1 * small.slotTicks, (s.portsAt j).rst = false ∧ (s.portsAt j).waitFault = false) ∧
      (∀ j < (1 - 1) * small.slotTicks, (s.portsAt j).presentsCancel = false) ∧
      ∃ j, (1 - 1) * small.slotTicks ≤ j ∧ j < 1 * small.slotTicks ∧ (s.portsAt j).presentsCancel = true :=
  ⟨⟨_, rfl, small_ok, rfl, rfl, rfl, rfl, by decide, by decide, by decide, by decide, 2, by decide⟩,
    ⟨_, rfl, by decide, by decide, 1, by decide⟩⟩

theorem test_witness_EverySessionEnds :
    ∃ s, s = vector .idle 0 0 false false [command 0b011 0] ∧ small.Ok ∧ Inv small s ∧ s.state ≠ .running ∧
      1 ≤ s.len ∧ (s.portsAt 0).rst = false ∧ (s.portsAt 0).presentsStart = true ∧
      ∀ j, 1 ≤ j → j ≤ 1 + seqLen s * small.slotTicks → (s.portsAt j).rst = false :=
  ⟨_, rfl, small_ok, inv_idle _, by decide, by decide, rfl, rfl, fun j h _ => by rw [portsAt_after_start j h]; decide⟩

/-- One character, and a full buffer. -/
theorem test_witness_SendScriptStartsTheText :
    ∀ text ∈ [[0x0141], [0x4F, 0x4B]],
      ∃ s, s = vector .idle 0 0 false false (scriptInputs (sendLines 0 text) (text.length + 2)) ∧ small.Ok ∧
        Inv small s ∧ s.state ≠ .running ∧ 1 ≤ text.length ∧ text.length ≤ small.msgMax ∧
        ∀ j < text.length + 2, s.portsAt j = scriptPorts (sendLines 0 text) j := by
  simp only [List.forall_mem_cons]
  exact ⟨⟨_, rfl, small_ok, inv_idle _, by decide, by decide, by decide, by decide⟩,
    ⟨_, rfl, small_ok, inv_idle _, by decide, by decide, by decide, by decide⟩, by simp⟩

end Sys2Proof.Tests
end

section
/-! PROOF. The widths of the counters (00_scope.md R9): each derived width holds every value of its register. -/

namespace Sys2Proof.Machine

/-- What `ceilLog2` is for: so many bits tell `n` values apart. -/
theorem le_two_pow_ceilLog2 (n : Nat) : n ≤ 2 ^ Config.ceilLog2 n := by
  unfold Config.ceilLog2
  split
  · simpa
  · have : n - 1 < 2 ^ (Nat.log2 (n - 1) + 1) := Nat.lt_log2_self
    omega

/-- CURSOR's width holds 0 to `L_MAX`. -/
theorem lt_two_pow_curW {p : Params} {k : Nat} (h : k ≤ p.lMax) : k < 2 ^ p.curW :=
  (Nat.lt_succ_of_le h).trans_le (le_two_pow_ceilLog2 _)

/-- LEN's width holds 0 to `MSG_MAX`. -/
theorem lt_two_pow_lenW {p : Params} {k : Nat} (h : k ≤ p.msgMax) : k < 2 ^ p.lenW :=
  (Nat.lt_succ_of_le h).trans_le (le_two_pow_ceilLog2 _)

/-- SLOTCNT's width, at least one bit, holds 0 to `SLOT_TICKS - 1`. -/
theorem lt_two_pow_slotW {p : Params} {k : Nat} (h : k < p.slotTicks) : k < 2 ^ p.slotW :=
  calc k < p.slotTicks := h
    _ ≤ 2 ^ Config.ceilLog2 p.slotTicks := le_two_pow_ceilLog2 _
    _ ≤ 2 ^ p.slotW := Nat.pow_le_pow_right two_pos (le_max_right _ _)

/-- With at least one cycle in a slot, R36 (e)'s bound on SLOTCNT is a strict one. -/
theorem Inv.slotcnt_lt {p : Params} {s : State} (h : Inv p s) (hp : p.Ok) : s.slotcnt < p.slotTicks := by
  obtain ⟨hticks, -, -⟩ := hp
  have := h.slotcnt_le
  omega

/-- Settles O53: the bounds of the invariants, each taken to its register's width. -/
theorem countersFitTheirWidths : Obligations.CountersFitTheirWidths :=
  fun _ hp _ h =>
    ⟨lt_two_pow_curW h.cursor_le, lt_two_pow_lenW h.len_le, lt_two_pow_slotW (h.slotcnt_lt hp)⟩

end Sys2Proof.Machine
end

section
/-! PROOF. The response of a cycle (10_state.md R33, 41_commands.md R127), and the output ports as the registers show
them (10_state.md R32, R34). -/

namespace Sys2Proof.Machine

variable {p : Params} {L : Nat} {B : Source} {i : PortIn} {s t u : State}

/-- Every command answers the response of R127's table, from the state it finds. -/
theorem command_response (h : commandPart (execGen p B) (fetchCommand p i) s = .next u) :
    (i.cmdValid = false ∧ u = s) ∨
    (i.cmdValid = true ∧ u.rspValid = true ∧ u.rspCode = commandResponse p i.cmdOp s) := by
  rcases command_cases h with hnone | ⟨hv, ho, hx⟩ | ⟨hv, ho, hx⟩ | ⟨hv, ho, hx⟩ | ⟨hv, ho, rfl⟩ |
    ⟨hv, h1, h2, h3, h4, rfl⟩
  · exact .inl hnone
  · rcases pushAt_cases hx with ⟨hr, rfl⟩ | ⟨hr, hl, rfl⟩ | ⟨hr, hl, rfl⟩
    · exact .inr ⟨hv, rfl, by simp [commandResponse, ho, hr]⟩
    · exact .inr ⟨hv, rfl, by simp [commandResponse, ho, hr, hl]⟩
    · exact .inr ⟨hv, rfl, by simp [commandResponse, ho, hr, hl.ne]⟩
  · rcases clearOp_cases s with ⟨hr, hc⟩ | ⟨hr, hc⟩ <;> rw [hc] at hx <;> cases hx
    · exact .inr ⟨hv, rfl, by simp [commandResponse, ho, hr]⟩
    · exact .inr ⟨hv, rfl, by simp [commandResponse, ho, hr]⟩
  · rcases startOp_cases s with ⟨hr, hc⟩ | ⟨hr, hl, hc⟩ | ⟨hr, hl, hc⟩ <;> rw [hc] at hx <;> cases hx
    · exact .inr ⟨hv, rfl, by simp [commandResponse, ho, hr]⟩
    · exact .inr ⟨hv, rfl, by simp [commandResponse, ho, hr, hl]⟩
    · exact .inr ⟨hv, rfl, by simp [commandResponse, ho, hr, hl]⟩
  · exact .inr ⟨hv, rfl, by simp [commandResponse, ho]⟩
  · exact .inr ⟨hv, rfl, by simp [commandResponse, h1, h2, h3, h4]⟩

/-- The scheduler operation of a cycle leaves the response ports as the command left them (42_scheduler.md R154). -/
theorem operation_keeps_response (h : execGen p B (fetchOp L s i) t = .next u) :
    u.rspValid = t.rspValid ∧ u.rspCode = t.rspCode := by
  rw [fetchOp_eq] at h
  split at h
  · split at h
    · split at h
      · cases h; exact ⟨rfl, rfl⟩
      · split at h
        · cases h; exact ⟨rfl, rfl⟩
        · obtain ⟨b, -, rfl⟩ := emitAt_eq_next.1 h
          exact ⟨rfl, rfl⟩
    · split at h
      · cases h; exact ⟨rfl, rfl⟩
      · cases h; exact ⟨rfl, rfl⟩
  · cases h; exact ⟨rfl, rfl⟩

/-- The response that the state after a cycle records is the one on the ports of the cycle (log entry 2). -/
theorem cycle_response (h : cycle p (execGen p B) L s = .next t) :
    t.rspValid = rspValidPort s.ports ∧ t.rspCode = rspCodePort p s s.ports := by
  cases hrst : s.ports.rst with
  | true =>
    rw [cycle_reset hrst] at h
    cases h
    simp [rspCodePort, rspValidPort, hrst]
  | false =>
    obtain ⟨u, w, hu, hw, rfl⟩ := (cycle_eq_next hrst).1 h
    obtain ⟨hvalid, hcode⟩ := operation_keeps_response hw
    rcases command_response hu with ⟨hv, rfl⟩ | ⟨hv, huv, huc⟩
    · simp [rspCodePort, rspValidPort, hrst, hv, hvalid, hcode]
    · simp only [noteActErr_rspValid, noteActErr_rspCode, hvalid, hcode, huv, huc, rspCodePort, rspValidPort, hrst, hv]
      exact ⟨rfl, rfl⟩

/-- The table of 30_encoding.md R75 gives different responses different numbers. -/
theorem RspCode.code_inj {a b : RspCode} : a.code = b.code ↔ a = b := by
  cases a <;> cases b <;> decide

/-- The table of 30_encoding.md R76 gives different values of STATE different numbers. -/
theorem Session.code_inj {a b : Session} : a.code = b.code ↔ a = b := by
  cases a <;> cases b <;> decide

/-- The terminal states are the three outcomes of a session (10_state.md R34). -/
theorem Session.terminal_iff {a : Session} :
    a.terminal = true ↔ a = .completed ∨ a = .cancelled ∨ a = .interrupted := by
  cases a <;> simp [Session.terminal]

/-- Settles O22: `cycle_response`, with the ports' definitions read as R127's table. -/
theorem responsePorts : Obligations.ResponsePorts := by
  intro p s t h
  obtain ⟨hvalid, hcode⟩ := cycle_response h
  have hport : (outputs p s).rspCode = t.rspCode.code := congrArg RspCode.code hcode.symm
  refine ⟨hvalid, ?_, hvalid.symm, hport, ?_⟩
  · rw [hcode, rspCodePort, rspValidPort]
    cases s.ports.cmdValid <;> cases s.ports.rst <;> rfl
  · rw [hport]
    exact ⟨RspCode.code_inj.symm, RspCode.code_inj.symm, RspCode.code_inj.symm, RspCode.code_inj.symm,
      RspCode.code_inj.symm⟩

/-- Settles O35: every port is a register or a function of one; under the invariants LEN and CURSOR fit their ports. -/
theorem statusOutputs : Obligations.StatusOutputs := by
  intro p s
  refine ⟨rfl, rfl, rfl, rfl, Session.code_inj.symm, Session.code_inj.symm, Session.code_inj.symm,
    Session.code_inj.symm, Session.code_inj.symm, beq_iff_eq, Session.terminal_iff, fun hinv => ⟨?_, ?_⟩⟩
  · exact (BitVec.toNat_ofNat _ _).trans (Nat.mod_eq_of_lt (lt_two_pow_lenW hinv.len_le))
  · exact (BitVec.toNat_ofNat _ _).trans (Nat.mod_eq_of_lt (lt_two_pow_curW hinv.cursor_le))

/-- Settles O34: each field as R37 states it, and an empty list of cells stores none. -/
theorem resetValues : Obligations.ResetValues :=
  ⟨rfl, rfl, rfl, rfl, rfl, rfl, rfl, rfl, stored_nil⟩

end Sys2Proof.Machine
end

section
/-! PROOF. The cycle of the block as one list of named cases, from the inversion lemmas of Laws/Cycle.lean, and the next
value of each register (10_state.md R20 to R28) read off that list. -/

namespace Sys2Proof.Machine

variable {p : Params} {s t : State}

/-- What every cycle without reset does beside its operation and an accepted PUSH, CLEAR or START: the inputs move on,
the response goes out, a CANCEL command sets the flag and a report sets ACT_WARN. -/
def State.taken (p : Params) (s : State) : State :=
  { s with
    inputs := s.inputs.tail, rspValid := rspValidPort s.ports, rspCode := rspCodePort p s s.ports,
    cancel := s.cancel || s.ports.presentsCancel, actWarn := s.actWarn || s.ports.actErr }

@[simp] theorem taken_state : (s.taken p).state = s.state := rfl
@[simp] theorem taken_cursor : (s.taken p).cursor = s.cursor := rfl
@[simp] theorem taken_slotcnt : (s.taken p).slotcnt = s.slotcnt := rfl
@[simp] theorem taken_cancel : (s.taken p).cancel = (s.cancel || s.ports.presentsCancel) := rfl
@[simp] theorem taken_len : (s.taken p).len = s.len := rfl
@[simp] theorem taken_msg : (s.taken p).msg = s.msg := rfl
@[simp] theorem taken_act : (s.taken p).act = s.act := rfl
@[simp] theorem taken_actStb : (s.taken p).actStb = s.actStb := rfl
@[simp] theorem taken_actWarn : (s.taken p).actWarn = (s.actWarn || s.ports.actErr) := rfl
@[simp] theorem taken_rspValid : (s.taken p).rspValid = rspValidPort s.ports := rfl
@[simp] theorem taken_rspCode : (s.taken p).rspCode = rspCodePort p s s.ports := rfl
@[simp] theorem taken_inputs : (s.taken p).inputs = s.inputs.tail := rfl

/-- An accepted START is presented (41_commands.md R123). -/
abbrev State.startsSession (s : State) : Prop := s.ports.presentsStart = true ∧ s.state ≠ .running ∧ s.len ≠ 0

/-- One cycle of the block: the state before it meets the case's conditions, and the index is the state after it. The
tie to the model is `cycleCase_of_stepAt`. -/
inductive CycleCase (p : Params) (s : State) : State → Prop
  /-- Reset (70_reset_and_hazards.md R220). -/
  | reset (hrst : s.ports.rst = true) : CycleCase p s s.beginCycle.applyReset
  /-- FIN_COMPLETE (42_scheduler.md R143). -/
  | complete (hrst : s.ports.rst = false) (hr : s.state = .running) (hz : s.slotcnt = 0) (he : s.cursor = seqLen s) :
      CycleCase p s ((s.taken p).finish .completed)
  /-- FIN_CANCEL (42_scheduler.md R144). -/
  | cancel (hrst : s.ports.rst = false) (hr : s.state = .running) (hz : s.slotcnt = 0) (he : s.cursor ≠ seqLen s)
      (hk : s.cancel = true) : CycleCase p s ((s.taken p).finish .cancelled)
  /-- EMIT of the symbol `b` (42_scheduler.md R141). -/
  | emit (hrst : s.ports.rst = false) (hr : s.state = .running) (hz : s.slotcnt = 0) (he : s.cursor ≠ seqLen s)
      (hk : s.cancel = false) {b : Symbol} (hb : seqBit p s s.cursor = .next b) :
      CycleCase p s ((s.taken p).sendSymbol p b)
  /-- FIN_INTERRUPT (42_scheduler.md R145). -/
  | interrupt (hrst : s.ports.rst = false) (hr : s.state = .running) (hz : s.slotcnt ≠ 0)
      (hf : s.ports.waitFault = true) : CycleCase p s ((s.taken p).finish .interrupted)
  /-- WAIT (42_scheduler.md R142). -/
  | wait (hrst : s.ports.rst = false) (hr : s.state = .running) (hz : s.slotcnt ≠ 0)
      (hf : s.ports.waitFault = false) : CycleCase p s { (s.taken p).noEvent with slotcnt := s.slotcnt - 1 }
  /-- HOLD with an accepted PUSH (41_commands.md R121). -/
  | push (hrst : s.ports.rst = false) (hr : s.state ≠ .running) (hv : s.ports.cmdValid = true)
      (ho : s.ports.cmdOp = 0b001#3) (hl : s.len < p.msgMax) :
      CycleCase p s { (s.taken p).noEvent with
        msg := Memory.store s.msg s.len (encCode (s.ports.code p)), len := s.len + 1 }
  /-- HOLD with an accepted CLEAR (41_commands.md R122). -/
  | clear (hrst : s.ports.rst = false) (hr : s.state ≠ .running) (hv : s.ports.cmdValid = true)
      (ho : s.ports.cmdOp = 0b010#3) : CycleCase p s { (s.taken p).noEvent with len := 0 }
  /-- HOLD with an accepted START (41_commands.md R123); a report wins over its clear (43_output_driver.md R176). -/
  | start (hrst : s.ports.rst = false) (hr : s.state ≠ .running) (hs : s.ports.presentsStart = true)
      (ho : s.ports.cmdOp = 0b011#3) (hl : s.len ≠ 0) :
      CycleCase p s ((s.taken p).noEvent.beginSession.noteActErr s.ports.actErr)
  /-- HOLD with no command, with CANCEL, or with a refused command (41_commands.md R127). -/
  | hold (hrst : s.ports.rst = false) (hr : s.state ≠ .running) (hs : s.ports.presentsStart = false ∨ s.len = 0)
      (hclear : ¬ (s.ports.cmdValid = true ∧ s.ports.cmdOp = 0b010#3))
      (hpush : ¬ (s.ports.cmdValid = true ∧ s.ports.cmdOp = 0b001#3 ∧ s.len ≠ p.msgMax)) :
      CycleCase p s (s.taken p).noEvent

/-- CANCEL is presented with its own operation code only. -/
theorem presentsCancel_of_ne {i : PortIn} (h : i.cmdOp ≠ 0b100#3) : i.presentsCancel = false := by
  simp [PortIn.presentsCancel, h]

/-- START is presented with its own operation code only. -/
theorem presentsStart_of_ne {i : PortIn} (h : i.cmdOp ≠ 0b011#3) : i.presentsStart = false := by
  simp [PortIn.presentsStart, h]

/-- Beside an accepted command other than CANCEL a cycle answers OK and leaves CANCEL. -/
theorem taken_of_ok (hvalid : rspValidPort s.ports = true) (hcode : rspCodePort p s s.ports = .ok)
    (hk : s.ports.presentsCancel = false) :
    s.taken p = { s with
      inputs := s.inputs.tail, rspValid := true, rspCode := .ok, actWarn := s.actWarn || s.ports.actErr } := by
  simp [State.taken, hvalid, hcode, hk]

/-- Every step is one of the cases. -/
theorem cycleCase_of_stepAt (h : stepAt p s = .next t) : CycleCase p s t := by
  obtain ⟨hvalid, hcode⟩ := cycle_response h
  cases hrst : s.ports.rst with
  | true =>
    rw [stepAt, cycle_reset hrst] at h
    cases h
    exact .reset hrst
  | false =>
    by_cases hr : s.state = .running
    · obtain ⟨v, c, ⟨hz, he, rfl⟩ | ⟨hz, he, hk, rfl⟩ | ⟨hz, he, hk, b, hb, rfl⟩ | ⟨hz, hf, rfl⟩ | ⟨hz, hf, rfl⟩⟩ :=
        cycle_running_cases hrst hr h <;> obtain rfl : v = _ := hvalid <;> obtain rfl : c = _ := hcode
      · exact .complete hrst hr hz he
      · exact .cancel hrst hr hz he hk
      · exact .emit hrst hr hz he hk hb
      · exact .interrupt hrst hr hz hf
      · exact .wait hrst hr hz hf
    · rcases cycle_idle_cases hrst hr h with ⟨hv, ho, hl, rfl⟩ | ⟨hv, ho, rfl⟩ | ⟨hs, ho, hl, rfl⟩ |
        ⟨hs, hclear, hpush, v, c, rfl⟩
      · have hcase := CycleCase.push hrst hr hv ho hl (p := p)
        rwa [taken_of_ok hvalid.symm hcode.symm (presentsCancel_of_ne (by simp [ho]))] at hcase
      · have hcase := CycleCase.clear hrst hr hv ho (p := p)
        rwa [taken_of_ok hvalid.symm hcode.symm (presentsCancel_of_ne (by simp [ho]))] at hcase
      · have hcase := CycleCase.start hrst hr hs ho hl (p := p)
        rwa [taken_of_ok hvalid.symm hcode.symm (presentsCancel_of_ne (by simp [ho]))] at hcase
      · obtain rfl : v = _ := hvalid
        obtain rfl : c = _ := hcode
        exact .hold hrst hr ((Bool.eq_false_or_eq_true _).symm.imp_right hs) hclear hpush

/-- Settles O37: CURSOR in each case of the cycle. -/
theorem cursorNext : Obligations.CursorNext := by
  intro p s t h
  cases cycleCase_of_stepAt h with
  | reset hrst => simp [hrst]
  | complete hrst hr hz he => simp [hrst, hr, he]
  | cancel hrst hr hz he hk => simp [hrst, hr, hk]
  | emit hrst hr hz he hk => simp [hrst, hr, hz, he, hk]
  | interrupt hrst hr hz => simp [hrst, hr, hz]
  | wait hrst hr hz => simp [hrst, hr, hz]
  | push hrst hr hv ho => simp [hrst, hr, presentsStart_of_ne, ho]
  | clear hrst hr hv ho => simp [hrst, hr, presentsStart_of_ne, ho]
  | start hrst hr hs ho hl => simp [hrst, hr, hs, hl]
  | hold hrst hr hs => rcases hs with hs | hs <;> simp [hrst, hr, hs]

/-- Settles O38: SLOTCNT in each case of the cycle. -/
theorem slotcntNext : Obligations.SlotcntNext := by
  intro p s t h
  cases cycleCase_of_stepAt h with
  | reset hrst => simp [hrst]
  | complete hrst hr hz he => simp [hrst, hr, hz, he]
  | cancel hrst hr hz he hk => simp [hrst, hr, hz, hk]
  | emit hrst hr hz he hk => simp [hrst, hr, hz, he, hk]
  | interrupt hrst hr hz hf => simp [hrst, hr, hz, hf]
  | wait hrst hr hz hf => simp [hrst, hr, hz, hf]
  | push hrst hr hv ho => simp [hrst, hr, presentsStart_of_ne, ho]
  | clear hrst hr hv ho => simp [hrst, hr, presentsStart_of_ne, ho]
  | start hrst hr hs ho hl => simp [hrst, hr, hs, hl]
  | hold hrst hr hs => rcases hs with hs | hs <;> simp [hrst, hr, hs]

/-- The two flags in a cycle: reset clears them, an accepted START clears CANCEL and leaves ACT_WARN the report of the
cycle, and in every other cycle each flag gathers what the cycle sets. -/
theorem flags_cases (h : stepAt p s = .next t) :
    (s.ports.rst = true ∧ t.cancel = false ∧ t.actWarn = false) ∨
    (s.ports.rst = false ∧ s.startsSession ∧ s.ports.presentsCancel = false ∧
      t.cancel = false ∧ t.actWarn = s.ports.actErr) ∨
    (s.ports.rst = false ∧ ¬ s.startsSession ∧
      t.cancel = (s.cancel || s.ports.presentsCancel) ∧ t.actWarn = (s.actWarn || s.ports.actErr)) := by
  have hrunning (hr : s.state = .running) : ¬ s.startsSession := fun ⟨_, hi, _⟩ => hi hr
  have hother (ho : s.ports.cmdOp ≠ 0b011#3) : ¬ s.startsSession := by
    rintro ⟨hs, -, -⟩
    simp [presentsStart_of_ne ho] at hs
  cases cycleCase_of_stepAt h with
  | reset hrst => exact .inl ⟨hrst, rfl, rfl⟩
  | complete hrst hr => exact .inr (.inr ⟨hrst, hrunning hr, rfl, rfl⟩)
  | cancel hrst hr => exact .inr (.inr ⟨hrst, hrunning hr, rfl, rfl⟩)
  | emit hrst hr => exact .inr (.inr ⟨hrst, hrunning hr, rfl, rfl⟩)
  | interrupt hrst hr => exact .inr (.inr ⟨hrst, hrunning hr, rfl, rfl⟩)
  | wait hrst hr => exact .inr (.inr ⟨hrst, hrunning hr, rfl, rfl⟩)
  | push hrst hr hv ho => exact .inr (.inr ⟨hrst, hother (by simp [ho]), rfl, rfl⟩)
  | clear hrst hr hv ho => exact .inr (.inr ⟨hrst, hother (by simp [ho]), rfl, rfl⟩)
  | start hrst hr hs ho hl =>
    exact .inr (.inl ⟨hrst, ⟨hs, hr, hl⟩, presentsCancel_of_ne (by simp [ho]), rfl, rfl⟩)
  | hold hrst hr hs => exact .inr (.inr ⟨hrst, fun ⟨hstart, _, hl⟩ => hs.elim (by simp [hstart]) hl, rfl, rfl⟩)

/-- Settles O39: CANCEL's part of `flags_cases`. -/
theorem cancelNext : Obligations.CancelNext := by
  intro p s t h
  rcases flags_cases h with ⟨hrst, hk, -⟩ | ⟨hrst, hs, hc, hk, -⟩ | ⟨hrst, hs, hk, -⟩
  · simp [hrst, hk]
  · simp [hrst, hc, hk, if_pos hs]
  · rw [if_neg hs, hk]
    simp [hrst, Bool.or_comm]

/-- Settles O42: ACT_WARN's part of `flags_cases`. -/
theorem actWarnNext : Obligations.ActWarnNext := by
  intro p s t h
  rcases flags_cases h with ⟨hrst, -, hw⟩ | ⟨hrst, hs, -, -, hw⟩ | ⟨hrst, hs, -, hw⟩
  · simp [hrst, hw]
  · rw [if_pos hs, hw]
    simp [hrst]
  · rw [if_neg hs, hw]
    simp [hrst, Bool.or_comm]

/-- Settles O40: LEN and the cells in each case of the cycle; PUSH by the laws of a store. -/
theorem messageNext : Obligations.MessageNext := by
  intro p s t h
  cases cycleCase_of_stepAt h with
  | reset hrst => simp [hrst]
  | complete hrst hr => simp [hrst, hr]
  | cancel hrst hr => simp [hrst, hr]
  | emit hrst hr => simp [hrst, hr]
  | interrupt hrst hr => simp [hrst, hr]
  | wait hrst hr => simp [hrst, hr]
  | push hrst hr hv ho hl =>
    rw [if_neg (by simp [hrst]), if_pos ⟨hv, ho, hr, hl.ne⟩]
    exact ⟨rfl, stored_store_same _ _ _, fun j hj => stored_store_other _ _ hj⟩
  | clear hrst hr hv ho => simp [hrst, hr, hv, ho]
  | start hrst hr hs ho => simp [hrst, ho]
  | hold hrst hr hs hclear hpush =>
    rw [if_neg (by simp [hrst]), if_neg fun ⟨hv, ho, _, hl⟩ => hpush ⟨hv, ho, hl⟩,
      if_neg fun ⟨hv, ho, _⟩ => hclear ⟨hv, ho⟩]
    exact ⟨rfl, rfl⟩

/-- Settles O41: ACT and ACT_STB in each case of the cycle. -/
theorem actuatorNext : Obligations.ActuatorNext := by
  intro p s t h
  cases cycleCase_of_stepAt h with
  | reset hrst => simp [hrst]
  | complete hrst hr hz he => simp [hrst, hr, hz, he]
  | cancel hrst hr hz he hk => simp [hrst, hr, hz, hk]
  | emit hrst hr hz he hk hb => simp [hrst, hr, hz, he, hk, hb]
  | interrupt hrst hr hz hf => simp [hrst, hr, hz, hf]
  | wait hrst hr hz hf => simp [hrst, hr, hz, hf]
  | push hrst hr => simp [hrst, hr]
  | clear hrst hr => simp [hrst, hr]
  | start hrst hr => simp [hrst, hr]
  | hold hrst hr => simp [hrst, hr]

end Sys2Proof.Machine
end

section
/-! PROOF. The invariants of 10_state.md R36 hold at reset, and every write that a cycle can make keeps them. -/

namespace Sys2Proof.Machine

variable {p : Params} {s t : State}

/-- With LEN in its range the Bit Sequence is at most `L_MAX` long (00_scope.md R9, 40_encoder.md R107). -/
theorem seqLen_le_lMax (h : s.len ≤ p.msgMax) : seqLen s ≤ p.lMax := by
  unfold seqLen Params.lMax
  omega

theorem Inv.beginCycle (h : Inv p s) : Inv p s.beginCycle := { h with }

theorem Inv.taken (h : Inv p s) : Inv p (s.taken p) :=
  { h with cancelled_flag := fun hs => by simp [h.cancelled_flag hs] }

theorem Inv.noEvent (h : Inv p s) : Inv p s.noEvent := { h with }

theorem Inv.noteActErr (h : Inv p s) (b : Bool) : Inv p (s.noteActErr b) := { h with }

/-- With the registers at their reset values, whatever cells are stored: none of them is live. -/
theorem inv_reset {m : Memory} (hwf : Memory.wf m) (hbound : ∀ c ∈ m, c.1 < p.msgMax) (is : List PortIn) :
    Inv p { State.reset with msg := m, inputs := is } where
  off_outside _ := ⟨rfl, rfl⟩
  running_bounds := nofun
  wait_after_emit := nofun
  len_le := Nat.zero_le _
  slotcnt_le := Nat.zero_le _
  cursor_le := Nat.zero_le _
  idle_cursor _ := rfl
  cancelled_flag := nofun
  msg_wf := hwf
  msg_bound := hbound
  live_written := nofun

/-- Reset keeps the message cells (70_reset_and_hazards.md R220). -/
theorem Inv.applyReset (h : Inv p s) : Inv p s.applyReset := inv_reset h.msg_wf h.msg_bound _

/-- Terminal entry keeps the invariants; Cancelled needs the flag (R36 (h)). -/
theorem Inv.finish (h : Inv p s) {o : Session} (ho : o.terminal = true) (hk : o = .cancelled → s.cancel = true) :
    Inv p (s.finish o) :=
  { h with
    off_outside := fun _ => ⟨rfl, rfl⟩
    running_bounds := fun hr => by simp_all [Session.terminal]
    wait_after_emit := fun _ hz => absurd rfl hz
    slotcnt_le := Nat.zero_le _
    idle_cursor := fun hi => by simp_all [Session.terminal]
    cancelled_flag := hk }

/-- In a session with a symbol remaining, sending it moves the cursor inside its bound. -/
theorem Inv.sendSymbol (h : Inv p s) (hr : s.state = .running) (he : s.cursor ≠ seqLen s) (b : Symbol) :
    Inv p (s.sendSymbol p b) := by
  obtain ⟨hlen, hcursor⟩ := h.running_bounds hr
  have hnext : s.cursor + 1 ≤ seqLen s := by omega
  exact
    { h with
      off_outside := fun hi => absurd hr hi
      running_bounds := fun _ => ⟨hlen, hnext⟩
      wait_after_emit := fun _ _ => Nat.le_add_left 1 _
      slotcnt_le := le_rfl
      cursor_le := hnext.trans (seqLen_le_lMax h.len_le)
      idle_cursor := fun hi => by simp_all }

/-- In a session the slot timer counts down inside its bound. -/
theorem Inv.countDown (h : Inv p s) (hr : s.state = .running) : Inv p { s with slotcnt := s.slotcnt - 1 } :=
  { h with
    off_outside := fun hi => absurd hr hi
    wait_after_emit := fun _ hz => h.wait_after_emit hr (show s.slotcnt ≠ 0 from fun h0 => hz (by simp [h0]))
    slotcnt_le := (Nat.sub_le _ _).trans h.slotcnt_le }

/-- Outside a session, storing one character in cell LEN of a buffer that is not full. -/
theorem Inv.append (h : Inv p s) (hr : s.state ≠ .running) (hl : s.len < p.msgMax) (v : Byte) :
    Inv p { s with msg := Memory.store s.msg s.len v, len := s.len + 1 } :=
  { h with
    running_bounds := fun hrun => absurd hrun hr
    len_le := hl
    msg_wf := store_wf _ _ h.msg_wf
    msg_bound := fun c hc => by
      rcases mem_store hc with hc | rfl
      · exact h.msg_bound c hc
      · exact hl
    live_written := fun j hj => by
      by_cases he : j = s.len
      · simp [he]
      · rw [stored_store_other _ _ he]
        exact h.live_written j (Nat.lt_of_le_of_ne (Nat.le_of_lt_succ hj) he) }

/-- Outside a session, emptying the message buffer. -/
theorem Inv.clear (h : Inv p s) (hr : s.state ≠ .running) : Inv p { s with len := 0 } :=
  { h with
    running_bounds := fun hrun => absurd hrun hr
    len_le := Nat.zero_le _
    live_written := fun j hj => absurd hj (Nat.not_lt_zero j) }

/-- A session begins before its first symbol, with a message. -/
theorem Inv.beginSession (h : Inv p s) (hl : s.len ≠ 0) : Inv p s.beginSession :=
  { h with
    off_outside := fun hi => absurd rfl hi
    running_bounds := fun _ => ⟨Nat.one_le_iff_ne_zero.2 hl, Nat.zero_le _⟩
    wait_after_emit := fun _ hz => absurd rfl hz
    slotcnt_le := Nat.zero_le _
    cursor_le := Nat.zero_le _
    idle_cursor := fun _ => rfl
    cancelled_flag := fun hc => nomatch hc }

/-- Every step keeps the invariants: each case of the cycle is made of writes that do. -/
theorem Inv.stepAt (hinv : Inv p s) (h : stepAt p s = .next t) : Inv p t := by
  cases cycleCase_of_stepAt h with
  | reset hrst => exact hinv.beginCycle.applyReset
  | complete hrst hr hz he => exact hinv.taken.finish rfl nofun
  | cancel hrst hr hz he hk => exact hinv.taken.finish rfl fun _ => by simp [hk]
  | emit hrst hr hz he => exact hinv.taken.sendSymbol hr he _
  | interrupt hrst hr hz hf => exact hinv.taken.finish rfl nofun
  | wait hrst hr => exact hinv.taken.noEvent.countDown hr
  | push hrst hr hv ho hl => exact hinv.taken.noEvent.append hr hl _
  | clear hrst hr => exact hinv.taken.noEvent.clear hr
  | start hrst hr hs ho hl => exact (hinv.taken.noEvent.beginSession hl).noteActErr _
  | hold => exact hinv.taken.noEvent

/-- A command's meaning is the same over every sequence: EMIT alone reads it. -/
theorem execGen_command (B : Source) (op : BitVec 3) (d : CharCode) (s : State) :
    execGen Config.reference B (decodeOp op d) s = exec (decodeOp op d) s := by
  rcases op_cases op with rfl | rfl | rfl | rfl | rfl | rfl | rfl | rfl <;> rfl

/-- The operation of a cycle, on the state that the command leaves, reads the sequence of the pre-state. -/
theorem execGen_operation {u : State} {i : PortIn} {B : Source}
    (hu : commandPart (execGen Config.reference B) (fetchCommand Config.reference i) s.beginCycle = .next u) :
    execGen Config.reference (seqBit Config.reference s) (fetchOp (seqLen s) s i) u =
      exec (fetchOp (seqLen s) s i) u := by
  by_cases hr : s.state = .running
  · obtain ⟨v, c, rfl⟩ := command_running_cases (by simpa using hr) hu
    exact execGen_reference _ _
  · rw [fetchOp_eq, if_neg hr]
    rfl

/-- The machine's step is the general one in the reference configuration (log entry 3). -/
theorem step_eq_stepAt (s : State) : step s = stepAt Config.reference s := by
  have hcommand : commandPart exec (fetchCommand Config.reference s.ports) s.beginCycle =
      commandPart (execGen Config.reference (seqBit Config.reference s)) (fetchCommand Config.reference s.ports)
        s.beginCycle := by
    rw [fetchCommand_eq]
    cases s.ports.cmdValid
    · rfl
    · exact (execGen_command _ _ _ _).symm
  cases hrst : s.ports.rst with
  | true => exact (cycle_reset hrst).trans (cycle_reset hrst).symm
  | false =>
    simp only [step, stepAt, cycle, hrst, hcommand]
    cases hu : commandPart (execGen Config.reference (seqBit Config.reference s))
        (fetchCommand Config.reference s.ports) s.beginCycle with
    | next u => simp only [andThen_next, execGen_operation hu]
    | fault r => rfl
    | refused r => rfl

/-- Settles O50: `Inv.stepAt`, in every configuration and in the machine's. -/
theorem everyStepKeepsTheInvariants : Obligations.EveryStepKeepsTheInvariants :=
  ⟨fun _ _ _ _ hinv h => hinv.stepAt h, fun s _ hinv h => hinv.stepAt (step_eq_stepAt s ▸ h)⟩

/-- Settles O49: no cell is stored, and the reset state has no session in progress or ended. -/
theorem resetStateHasTheInvariants : Obligations.ResetStateHasTheInvariants :=
  fun _ is => ⟨inv_reset List.Pairwise.nil nofun is, ⟨nofun, nofun, nofun⟩⟩

end Sys2Proof.Machine
end

section
/-! PROOF. What a dead cell holds is unobservable (10_state.md R25, 20_memory.md R58): every update and every operation
takes states that agree in all but dead cells to states that do, and the Bit Sequence does not tell them apart. -/

namespace Sys2Proof.Machine

variable {p : Params} {s t : State}

/-! ### The updates of the state -/

theorem SameVisible.beginCycle (h : SameVisible s t) : SameVisible s.beginCycle t.beginCycle :=
  { h with inputs_eq := congrArg List.tail h.inputs_eq, rspValid_eq := rfl, rspCode_eq := rfl }

theorem SameVisible.respond (h : SameVisible s t) (c : RspCode) : SameVisible (s.respond c) (t.respond c) :=
  { h with rspValid_eq := rfl, rspCode_eq := rfl }

theorem SameVisible.noEvent (h : SameVisible s t) : SameVisible s.noEvent t.noEvent :=
  { h with actStb_eq := rfl }

theorem SameVisible.sendSymbol (h : SameVisible s t) (b : Symbol) :
    SameVisible (s.sendSymbol p b) (t.sendSymbol p b) :=
  { h with act_eq := rfl, actStb_eq := rfl, cursor_eq := congrArg (· + 1) h.cursor_eq, slotcnt_eq := rfl }

theorem SameVisible.finish (h : SameVisible s t) (o : Session) : SameVisible (s.finish o) (t.finish o) :=
  { h with act_eq := rfl, actStb_eq := rfl, state_eq := rfl, slotcnt_eq := rfl }

theorem SameVisible.countDown (h : SameVisible s t) :
    SameVisible { s with slotcnt := s.slotcnt - 1 } { t with slotcnt := t.slotcnt - 1 } :=
  { h with slotcnt_eq := congrArg (· - 1) h.slotcnt_eq }

theorem SameVisible.beginSession (h : SameVisible s t) : SameVisible s.beginSession t.beginSession :=
  { h with state_eq := rfl, cursor_eq := rfl, slotcnt_eq := rfl, cancel_eq := rfl, actWarn_eq := rfl }

theorem SameVisible.setCancel (h : SameVisible s t) :
    SameVisible { s with cancel := true } { t with cancel := true } :=
  { h with cancel_eq := rfl }

theorem SameVisible.noteActErr (h : SameVisible s t) (b : Bool) : SameVisible (s.noteActErr b) (t.noteActErr b) :=
  { h with actWarn_eq := congrArg (· || b) h.actWarn_eq }

/-- An emptied buffer has no live cell. -/
theorem SameVisible.clear (h : SameVisible s t) : SameVisible { s with len := 0 } { t with len := 0 } :=
  { h with len_eq := rfl, cells_eq := nofun }

/-- Reset empties the buffer. -/
theorem SameVisible.applyReset (h : SameVisible s t) : SameVisible s.applyReset t.applyReset :=
  ⟨rfl, rfl, rfl, rfl, rfl, rfl, rfl, rfl, rfl, rfl, h.inputs_eq, nofun⟩

/-- The cell that becomes live is the one just stored (20_memory.md R58). -/
theorem SameVisible.append (h : SameVisible s t) (v : Byte) :
    SameVisible { s with msg := Memory.store s.msg s.len v, len := s.len + 1 }
      { t with msg := Memory.store t.msg t.len v, len := t.len + 1 } :=
  { h with
    len_eq := congrArg (· + 1) h.len_eq
    cells_eq := fun j hj => by
      simp only [← h.len_eq]
      by_cases he : j = s.len
      · simp [he]
      · rw [cell_store_other _ _ he, cell_store_other _ _ he]
        exact h.cells_eq j (Nat.lt_of_le_of_ne (Nat.le_of_lt_succ hj) he) }

/-! ### What a cycle reads -/

theorem SameVisible.ports_eq (h : SameVisible s t) : s.ports = t.ports := by
  simp only [State.ports, h.inputs_eq]

theorem SameVisible.seqLen_eq (h : SameVisible s t) : seqLen s = seqLen t := by
  simp only [seqLen, h.len_eq]

/-- SEQ_BIT reads live cells alone (40_encoder.md R109). -/
theorem seqBit_congr_live (hl : s.len = t.len) (hc : ∀ j < s.len, Memory.cell s.msg j = Memory.cell t.msg j) (i : Nat) :
    seqBit p s i = seqBit p t i := by
  have hfetch (j : Nat) : fetchChar p s j = fetchChar p t j := by
    simp only [fetchChar, memRead, ← hl]
    split
    · rw [hc j ‹_›]
    · rfl
  simp only [seqBit, hfetch, hl]

theorem SameVisible.fetchOp_eq (h : SameVisible s t) (L : Nat) (i : PortIn) : fetchOp L s i = fetchOp L t i := by
  simp only [fetchOp, dispatchVector, flagR, flagZ, flagE, flagK, h.state_eq, h.slotcnt_eq, h.cursor_eq, h.cancel_eq]

/-- The output ports show registers, and the response's table reads STATE and LEN. -/
theorem SameVisible.outputs_eq (h : SameVisible s t) : outputs p s = outputs p t := by
  simp only [outputs, rspCodePort, commandResponse, h.ports_eq, h.act_eq, h.actStb_eq, h.state_eq, h.cancel_eq,
    h.actWarn_eq, h.len_eq, h.cursor_eq]

/-! ### The outcomes -/

/-- Where the first outcome is a next state, so is the second, and the states agree in all but dead cells. -/
def Follows (o o' : Result) : Prop := ∀ u, o = .next u → ∃ v, o' = .next v ∧ SameVisible u v

theorem SameVisible.follows (h : SameVisible s t) : Follows (.next s) (.next t) := by
  rintro u ⟨⟩
  exact ⟨t, rfl, h⟩

theorem Follows.andThen {o o' : Result} {g g' : State → Result} (h : Follows o o')
    (hg : ∀ u v, SameVisible u v → Follows (g u) (g' v)) : Follows (andThen o g) (andThen o' g') := by
  intro w hw
  obtain ⟨u, hu, hgu⟩ := andThen_eq_next.1 hw
  obtain ⟨v, hv, huv⟩ := h u hu
  obtain ⟨w', hw', hww'⟩ := hg u v huv w hgu
  exact ⟨w', andThen_eq_next.2 ⟨v, hv, hw'⟩, hww'⟩

theorem SameVisible.pushAt (h : SameVisible s t) (d : CharCode) : Follows (pushAt p d s) (pushAt p d t) := by
  intro u hu
  unfold Machine.pushAt
  rcases pushAt_cases hu with ⟨hr, rfl⟩ | ⟨hr, hl, rfl⟩ | ⟨hr, hl, rfl⟩
  · rw [if_pos (h.state_eq ▸ hr)]
    exact ⟨_, rfl, h.respond _⟩
  · rw [if_neg (h.state_eq ▸ hr), if_pos (h.len_eq ▸ hl)]
    exact ⟨_, rfl, h.respond _⟩
  · rw [if_neg (h.state_eq ▸ hr), if_neg (h.len_eq ▸ hl.ne)]
    exact ⟨_, andThen_eq_next.2 ⟨_, memWrite_eq_next.2 ⟨rfl, h.len_eq ▸ hl, rfl⟩, rfl⟩, (h.append _).respond _⟩

theorem SameVisible.clearOp (h : SameVisible s t) : Follows (clearOp s) (clearOp t) := by
  rcases clearOp_cases s with ⟨hr, hs⟩ | ⟨hr, hs⟩ <;> rw [hs, Machine.clearOp]
  · rw [if_pos (h.state_eq ▸ hr)]
    exact (h.respond _).follows
  · rw [if_neg (h.state_eq ▸ hr)]
    exact (h.clear.respond _).follows

theorem SameVisible.startOp (h : SameVisible s t) : Follows (startOp s) (startOp t) := by
  rcases startOp_cases s with ⟨hr, hs⟩ | ⟨hr, hl, hs⟩ | ⟨hr, hl, hs⟩ <;> rw [hs, Machine.startOp]
  · rw [if_pos (h.state_eq ▸ hr)]
    exact (h.respond _).follows
  · rw [if_neg (h.state_eq ▸ hr), if_pos (h.len_eq ▸ hl)]
    exact (h.respond _).follows
  · rw [if_neg (h.state_eq ▸ hr), if_neg (h.len_eq ▸ hl)]
    exact (h.beginSession.respond _).follows

theorem SameVisible.emitAt (h : SameVisible s t) (b : Host.Outcome Symbol Fault Refusal) :
    Follows (emitAt p b s) (emitAt p b t) := by
  intro u hu
  obtain ⟨v, hb, rfl⟩ := emitAt_eq_next.1 hu
  exact ⟨_, emitAt_eq_next.2 ⟨v, hb, rfl⟩, h.sendSymbol v⟩

/-- Every instruction, over one and the same sequence. -/
theorem SameVisible.execGen (h : SameVisible s t) (B : Source) (i : Instr) :
    Follows (execGen p B i s) (execGen p B i t) := by
  cases i with
  | push d => exact h.pushAt d
  | clear _ => exact h.clearOp
  | start _ => exact h.startOp
  | cancel _ => exact (h.setCancel.respond _).follows
  | op0 _ | op5 _ | op6 _ | op7 _ => exact (h.respond _).follows
  | hold _ _ _ _ => exact h.noEvent.follows
  | finComplete _ _ | finCancel _ | finInterrupt _ _ => exact (h.finish _).follows
  | emit _ =>
    simp only [Machine.execGen, h.cursor_eq]
    exact h.emitAt _
  | wait _ _ => exact h.noEvent.countDown.follows
  | charFrame _ _ | padFrame =>
    simp only [Machine.execGen, frameSymbolAt_eq, h.cursor_eq]
    exact (h.sendSymbol _).follows
  | startMarker | stopMarker => exact (h.sendSymbol _).follows

theorem SameVisible.stepAt (h : SameVisible s t) : Follows (stepAt p s) (stepAt p t) := by
  have hseq : seqBit p s = seqBit p t := funext (seqBit_congr_live h.len_eq h.cells_eq)
  simp only [Machine.stepAt, cycle, hseq, h.seqLen_eq, h.ports_eq, h.fetchOp_eq]
  split
  · exact h.beginCycle.applyReset.follows
  · have hcommand : Follows (commandPart (Machine.execGen p (seqBit p t)) (fetchCommand p t.ports) s.beginCycle)
        (commandPart (Machine.execGen p (seqBit p t)) (fetchCommand p t.ports) t.beginCycle) := by
      cases fetchCommand p t.ports with
      | none => exact h.beginCycle.follows
      | some i => exact h.beginCycle.execGen _ i
    exact hcommand.andThen fun u v huv =>
      (huv.execGen _ _).andThen fun u' v' huv' => (huv'.noteActErr _).follows

/-- Settles O54: the ports show no dead cell, and a cycle carries the agreement on. -/
theorem deadCellsAreUnobservable : Obligations.DeadCellsAreUnobservable :=
  fun _ _ _ u h hu => ⟨h.outputs_eq, h.stepAt u hu⟩

end Sys2Proof.Machine
end

section
/-! PROOF. A session ends (20_memory.md R67): every cycle of it ends it or uses up one of the cycles that the rest of its
schedule takes (42_scheduler.md R156). -/

namespace Sys2Proof.Machine

variable {p : Params} {s t : State} {f : State → Result}

/-- Every cycle takes its inputs off the list, a reset cycle too. -/
theorem stepAt_inputs (h : stepAt p s = .next t) : t.inputs = s.inputs.tail := by
  cases cycleCase_of_stepAt h <;> rfl

/-- The inputs to come move on by one in every cycle. -/
theorem stepAt_portsAt (h : stepAt p s = .next t) (j : Nat) : t.portsAt j = s.portsAt (j + 1) := by
  rw [portsAt_drop (s := s) (k := 1) (by simp [stepAt_inputs h]), Nat.add_comm]

/-- A run is peeled from its first cycle. -/
theorem runFor_first (h : f s = .next t) (k : Nat) : runFor f (k + 1) s = runFor f k t := by
  simp [runFor, h]

/-- A cycle that accepts a START begins the session (41_commands.md R123). -/
theorem stepAt_start (hrst : s.ports.rst = false) (hstart : s.startsSession) (h : stepAt p s = .next t) :
    t = (s.taken p).noEvent.beginSession.noteActErr s.ports.actErr := by
  obtain ⟨hs, hi, hl⟩ := hstart
  have hop : s.ports.cmdOp = 0b011#3 := by
    by_contra ho
    simp [presentsStart_of_ne ho] at hs
  cases cycleCase_of_stepAt h with
  | start => rfl
  | reset hreset => simp [hrst] at hreset
  | complete _ hr | cancel _ hr | emit _ hr | interrupt _ hr | wait _ hr => exact absurd hr hi
  | push _ _ _ ho | clear _ _ _ ho => simp [hop] at ho
  | hold _ _ hno => simp [hs, hl] at hno

/-- The cycles that a session has before its last one, if nothing ends it early: the rest of the present slot, and a
slot for each symbol not yet sent (42_scheduler.md R156). -/
def State.cyclesLeft (p : Params) (s : State) : Nat := s.slotcnt + (seqLen s - s.cursor) * p.slotTicks

/-- An accepted START has the whole schedule before it. -/
theorem cyclesLeft_start (hrst : s.ports.rst = false) (hstart : s.startsSession) (h : stepAt p s = .next t) :
    t.cyclesLeft p = seqLen s * p.slotTicks := by
  rw [stepAt_start hrst hstart h]
  simp [State.cyclesLeft, seqLen]

/-- Sending a symbol takes the first of the cycles of its slot. -/
theorem cyclesLeft_sendSymbol (hp : p.Ok) (hz : s.slotcnt = 0) (hc : s.cursor < seqLen s) (b : Symbol) :
    (s.sendSymbol p b).cyclesLeft p + 1 = s.cyclesLeft p := by
  obtain ⟨hslot, -, -⟩ := hp
  have hleft : seqLen s - s.cursor = seqLen s - (s.cursor + 1) + 1 := by omega
  have hsend : (s.sendSymbol p b).cyclesLeft p = p.slotTicks - 1 + (seqLen s - (s.cursor + 1)) * p.slotTicks := rfl
  rw [hsend, State.cyclesLeft, hz, hleft, Nat.add_one_mul]
  omega

/-- A cycle of a session, without reset, ends it or takes one of the cycles left. -/
theorem stepAt_running_progress (hp : p.Ok) (hinv : Inv p s) (hr : s.state = .running) (hrst : s.ports.rst = false)
    (h : stepAt p s = .next t) :
    t.state.terminal = true ∨ (t.state = .running ∧ t.cyclesLeft p + 1 = s.cyclesLeft p) := by
  cases cycleCase_of_stepAt h with
  | complete | cancel | interrupt => exact .inl rfl
  | emit _ _ hz he =>
    obtain ⟨-, hcursor⟩ := hinv.running_bounds hr
    exact .inr ⟨hr, cyclesLeft_sendSymbol (s := s.taken p) hp hz (Nat.lt_of_le_of_ne hcursor he) _⟩
  | wait _ _ hz =>
    refine .inr ⟨hr, ?_⟩
    simp only [State.cyclesLeft, seqLen, noEvent_len, noEvent_cursor, taken_len, taken_cursor]
    omega
  | reset hreset => simp [hrst] at hreset
  | push _ hi | clear _ hi | start _ hi | hold _ hi => exact absurd hr hi

/-- A session ends within the cycles left, if no reset comes in them. -/
theorem session_ends (hp : p.Ok) {n : Nat} (hinv : Inv p s) (hr : s.state = .running) (hn : s.cyclesLeft p = n)
    (hrst : ∀ j ≤ n, (s.portsAt j).rst = false) :
    ∃ k ≤ n, ∃ t u, runFor (stepAt p) k s = .next t ∧ t.state = .running ∧
      runFor (stepAt p) (k + 1) s = .next u ∧ u.state.terminal = true := by
  induction n generalizing s with
  | zero =>
    obtain ⟨u, hu⟩ := stepAt_next hinv.len_le
    rcases stepAt_running_progress hp hinv hr (portsAt_zero s ▸ hrst 0 le_rfl) hu with hend | ⟨-, hleft⟩
    · exact ⟨0, le_rfl, s, u, rfl, hr, runFor_first hu 0, hend⟩
    · omega
  | succ n ih =>
    obtain ⟨v, hv⟩ := stepAt_next hinv.len_le
    rcases stepAt_running_progress hp hinv hr (portsAt_zero s ▸ hrst 0 (Nat.zero_le _)) hv with hend | ⟨hrun, hleft⟩
    · exact ⟨0, Nat.zero_le _, s, v, rfl, hr, runFor_first hv 0, hend⟩
    · obtain ⟨k, hk, t, u, ht, htr, hu, hend⟩ := ih (hinv.stepAt hv) hrun (by omega) fun j hj =>
        stepAt_portsAt hv j ▸ hrst (j + 1) (Nat.succ_le_succ hj)
      exact ⟨k + 1, Nat.succ_le_succ hk, t, u, runFor_first hv k ▸ ht, htr, runFor_first hv (k + 1) ▸ hu, hend⟩

/-- Settles O59: the cycle of the START, then `session_ends` with the whole schedule before it. -/
theorem everySessionEnds : Obligations.EverySessionEnds := by
  intro p hp s hinv hi hl hrst hs hlater
  rw [portsAt_zero] at hrst hs
  have hstart : s.startsSession := ⟨hs, hi, Nat.one_le_iff_ne_zero.1 hl⟩
  obtain ⟨v, hv⟩ := stepAt_next hinv.len_le
  have hrun : v.state = .running := by rw [stepAt_start hrst hstart hv]; rfl
  obtain ⟨k, hk, t, u, ht, htr, hu, hend⟩ := session_ends hp (hinv.stepAt hv) hrun (cyclesLeft_start hrst hstart hv)
    fun j hj => stepAt_portsAt hv j ▸ hlater (j + 1) (Nat.le_add_left 1 j) (by omega)
  exact ⟨k + 1, Nat.le_add_left 1 k, by omega, t, u, runFor_first hv k ▸ ht, htr, runFor_first hv (k + 1) ▸ hu, hend⟩

end Sys2Proof.Machine
end

section
/-! PROOF. The message space (20_memory.md R50, R55, R57, R60): a cell read after a write, and the buffer and the Bit
Sequence through a session. -/

namespace Sys2Proof.Machine

variable {p : Params} {s t : State}

/-- An existing cell is read. -/
theorem memRead_next {k : Nat} (h : k < p.msgMax) (s : State) : memRead p k 1 s = .next (Memory.cell s.msg k) :=
  memRead_eq_next.2 ⟨rfl, h, rfl⟩

/-- Settles O15: the laws of a store, and the first test of an access. -/
theorem cellWriteThenRead : Obligations.CellWriteThenRead := by
  intro p j k v s hj hk
  refine ⟨⟨_, memWrite_eq_next.2 ⟨rfl, hj, rfl⟩, rfl, ?_⟩, fun size hsize => ⟨if_neg hsize, if_neg hsize⟩⟩
  simp only [memRead_next hk]
  split
  case isTrue he => rw [he, cell_store_same]
  case isFalse he => rw [cell_store_other _ _ he]

/-- The framed list looks at live cells alone (40_encoder.md R104). -/
theorem charAt_congr_live (hl : s.len = t.len) (hc : ∀ j < s.len, Memory.cell s.msg j = Memory.cell t.msg j) (j : Nat) :
    charAt s j = charAt t j := by
  simp only [charAt, ← hl]
  split
  · exact hc j ‹_›
  · rfl

/-- The Transmission Frame looks at LEN and at live cells alone (40_encoder.md R109). -/
theorem asmFrame_congr_live (hl : s.len = t.len) (hc : ∀ j < s.len, Memory.cell s.msg j = Memory.cell t.msg j) :
    asmFrame s = asmFrame t := by
  simp only [asmFrame, asmBody, asmChars, hl, funext (charAt_congr_live hl hc)]

/-- In a session the message is written by reset alone (20_memory.md R60). -/
theorem stepAt_running_message (h : stepAt p s = .next t) (hr : s.state = .running) (hrst : s.ports.rst = false) :
    t.len = s.len ∧ t.msg = s.msg := by
  simpa [hrst, hr] using messageNext p s t h

/-- In a session PUSH and CLEAR are Busy (41_commands.md R127). -/
theorem commandResponse_running {op : BitVec 3} (hr : s.state = .running) (ho : op = 0b001#3 ∨ op = 0b010#3) :
    commandResponse p op s = .busy := by
  rcases ho with rfl | rfl <;> simp [commandResponse, hr]

/-- Settles O47: the response by R127's table; the Bit Sequence is a function of the message, which stays. -/
theorem runningLock : Obligations.RunningLock := by
  intro p s t h hr hrst
  obtain ⟨-, hcode⟩ := cycle_response h
  obtain ⟨hl, hm⟩ := stepAt_running_message h hr hrst
  refine ⟨fun hv ho => ?_, hl, hm, by simp only [seqLen, hl], asmFrame_congr_live hl fun _ _ => by rw [hm],
    seqBit_congr p hl hm⟩
  rw [hcode, rspCodePort, if_pos (by simp [rspValidPort, hv, hrst]), commandResponse_running hr ho]

end Sys2Proof.Machine
end

section
/-! PROOF. The line (20_memory.md R51): the format in which the cursor stands, decoded from its symbols, is what EMIT
sends (40_encoder.md R108, 42_scheduler.md R141). -/

namespace Sys2Proof.Machine

variable {s : State}

/-- The ninth symbol stands in bit 0, the data bits above it (30_encoding.md R70). -/
theorem frameWordOf_getLsbD (d : Byte) (q : Bool) (j : Nat) :
    (frameWordOf d q).getLsbD j = if j < 1 then (BitVec.ofBool q).getLsbD j else d.getLsbD (j - 1) :=
  BitVec.getLsbD_append

/-- The data bits of nine symbols are those they were made of (30_encoding.md R70). -/
@[simp] theorem frameDataOf_frameWordOf (d : Byte) (q : Bool) : frameDataOf (frameWordOf d q) = d := by
  apply BitVec.eq_of_getLsbD_eq
  intro j hj
  simp only [frameDataOf, BitVec.getLsbD_extractLsb', frameWordOf_getLsbD, hj, decide_true, Bool.true_and,
    Nat.not_lt.2 (Nat.le_add_right 1 j), if_false, Nat.add_sub_cancel_left]

/-- The ninth symbol is the one the nine were made of (30_encoding.md R70). -/
@[simp] theorem frameParityOf_frameWordOf (d : Byte) (q : Bool) : frameParityOf (frameWordOf d q) = q :=
  (frameWordOf_getLsbD d q 0).trans (by simp)

/-- The Character Frame of a code decodes as the pad's row or as a CHARFRAME (40_encoder.md R103, R104; log entry 11). -/
theorem decode_characterFrame (c : Byte) :
    decode (.frame (frameWordOf c (encPar c))) =
      .instr (if c = Config.pad then .padFrame else .charFrame c (encPar c)) := by
  have hpad : 0b001000001#9 = frameWordOf Config.pad (encPar Config.pad) := by decide
  by_cases hc : c = Config.pad
  · subst hc
    rfl
  · have hword : frameWordOf c (encPar c) ≠ 0b001000001#9 := fun hw =>
      hc (by simpa using congrArg frameDataOf (hw.trans hpad))
    simp [decode, decodeFrame, hword, hc, parityHolds]

/-- The first twelve symbols are the start marker's (40_encoder.md R106). -/
theorem lineWordAt_startMarker {i : Nat} (h : i < 12) : lineWordAt s i = .marker 0b111111111111#12 := if_pos h

/-- In the body the index stands in the frame of its character (40_encoder.md R108). -/
theorem lineWordAt_frame {i : Nat} (hmarker : ¬ i < 12) (hbody : i < 12 + 9 * (s.len + 1)) :
    lineWordAt s i = .frame (frameWordOf (charAt s (charIndex i)) (encPar (charAt s (charIndex i)))) :=
  (if_neg hmarker).trans (if_pos hbody)

/-- After the body comes the stop marker (40_encoder.md R106). -/
theorem lineWordAt_stopMarker {i : Nat} (hmarker : ¬ i < 12) (hbody : ¬ i < 12 + 9 * (s.len + 1)) :
    lineWordAt s i = .marker 0b000000000000#12 :=
  (if_neg hmarker).trans (if_neg hbody)

/-- EMIT sends the symbol of the Bit Sequence at the cursor (42_scheduler.md R141). -/
theorem exec_emit {b : Symbol} (f : Bool) (h : seqBit Config.reference s s.cursor = .next b) :
    exec (.emit f) s = .next (s.sendSymbol Config.reference b) :=
  emitAt_eq_next.2 ⟨b, h, rfl⟩

/-- A code's frame goes out the same by either of the rows that it may decode as (log entry 11). -/
theorem exec_characterFrame (c : Byte) (s : State) :
    exec (if c = Config.pad then .padFrame else .charFrame c (encPar c)) s =
      .next (s.sendSymbol Config.reference (frameBit c (frameIndex s.cursor))) := by
  split
  case isTrue hc => subst hc; rfl
  case isFalse => rfl

/-- Settles O28: the three ranges of SEQ_BIT (40_encoder.md R108) are those of the line formats. -/
theorem emitRunsTheLineFormatAtTheCursor : Obligations.EmitRunsTheLineFormatAtTheCursor := by
  intro f s hl _
  have hbit := seqBit_next s.cursor hl
  by_cases hmarker : s.cursor < 12
  · rw [if_pos hmarker] at hbit
    refine ⟨.startMarker, ?_, .inr rfl, exec_emit f hbit⟩
    rw [lineWordAt_startMarker hmarker]
    rfl
  rw [if_neg hmarker] at hbit
  by_cases hbody : s.cursor < 12 + 9 * (s.len + 1)
  · rw [if_pos hbody] at hbit
    refine ⟨_, ?_, ?_, (exec_emit f hbit).trans (exec_characterFrame (charAt s (charIndex s.cursor)) s).symm⟩
    · rw [lineWordAt_frame hmarker hbody]
      exact decode_characterFrame _
    · split <;> exact .inl rfl
  · rw [if_neg hbody] at hbit
    refine ⟨.stopMarker, ?_, .inr rfl, exec_emit f hbit⟩
    rw [lineWordAt_stopMarker hmarker hbody]
    rfl

end Sys2Proof.Machine
end

section
/-! PROOF. The encodings (30_encoding.md R70, R71, R74, R77): each format's word and its fields determine one another,
so that decoding and encoding are inverse to each other; the rows of the dispatch vector; the Character Frames as the
patterns of even parity. -/

namespace Sys2Proof.Machine

/-! ### The command word -/

/-- A command's word, of any width, is read as the command it was made of (30_encoding.md R74). -/
theorem decode_cmdWordOf {w : Nat} (op : BitVec 3) (d : BitVec w) :
    decode (.cmd w (cmdWordOf op d)) = .instr (decodeOp op ⟨w, d⟩) := by
  simp only [decode, decodeCmd, cmdOpOf_cmdWordOf, cmdDataOf_cmdWordOf]

/-- Every command comes back from its word (30_encoding.md R74). -/
theorem decode_encode_command (op : BitVec 3) (d : CharCode) :
    decode (encode (decodeOp op d)) = .instr (decodeOp op d) := by
  obtain ⟨hword, -, -⟩ := Laws.encode_decodeOp op d
  rw [hword, decode_cmdWordOf]

/-- Every command term is well-formed, whatever its data (30_encoding.md R78). -/
theorem wf_decodeOp (op : BitVec 3) (d : CharCode) : (decodeOp op d).wf = true := by
  rcases op_cases op with rfl | rfl | rfl | rfl | rfl | rfl | rfl | rfl <;> rfl

/-- Every command word, of any width, comes back from its command (30_encoding.md R74). -/
theorem encode_decodeCmd {w : Nat} (word : BitVec (3 + w)) : encode (decodeCmd word) = .cmd w word := by
  obtain ⟨hword, -, -⟩ := Laws.encode_decodeOp (cmdOpOf word) ⟨w, cmdDataOf word⟩
  rw [decodeCmd, hword, cmdWordOf_fields]

/-- Settles O4: `decode_cmdWordOf` at the eight operation codes. -/
theorem commandWordTable : Obligations.CommandWordTable := fun _ d =>
  ⟨decode_cmdWordOf 0b000#3 d, decode_cmdWordOf 0b001#3 d, decode_cmdWordOf 0b010#3 d, decode_cmdWordOf 0b011#3 d,
    decode_cmdWordOf 0b100#3 d, decode_cmdWordOf 0b101#3 d, decode_cmdWordOf 0b110#3 d, decode_cmdWordOf 0b111#3 d⟩

/-! ### The dispatch vector -/

/-- The bits of a dispatch vector are the conditions it was made of (30_encoding.md R77). -/
theorem vectorOf_bits (r z e k f : Bool) :
    (vectorOf r z e k f).getLsbD 4 = r ∧ (vectorOf r z e k f).getLsbD 3 = z ∧ (vectorOf r z e k f).getLsbD 2 = e ∧
      (vectorOf r z e k f).getLsbD 1 = k ∧ (vectorOf r z e k f).getLsbD 0 = f := by
  revert r z e k f; decide

/-- A dispatch vector is the one made of its bits (30_encoding.md R77). -/
theorem vectorOf_getLsbD (v : BitVec 5) :
    vectorOf (v.getLsbD 4) (v.getLsbD 3) (v.getLsbD 2) (v.getLsbD 1) (v.getLsbD 0) = v := by
  revert v; decide

/-- The operation of each of the 32 vectors keeps every bit of it as an operand or by its row (30_encoding.md R77). -/
theorem encode_decodeSched (v : BitVec 5) : encode (decodeSched v) = .sched v ∧ (decodeSched v).wf = true := by
  revert v; decide

/-- Each of the 32 vectors matches one row of the table, that of its operation (30_encoding.md R77). -/
theorem schedRows_unique (v : BitVec 5) :
    ∃ r ∈ schedRows, r.matches v.toNat = true ∧ r.mnemonic = (decodeSched v).mnemonic ∧
      ∀ q ∈ schedRows, q.matches v.toNat = true → q = r := by
  revert v; decide

/-- Settles O3: the bits of the vector, and the rows on the 32 vectors. -/
theorem schedulerRowsDisjointAndCovering : Obligations.SchedulerRowsDisjointAndCovering := by
  refine ⟨fun L s w => ?_, schedRows_unique⟩
  obtain ⟨hr, hz, he, hk, hf⟩ := vectorOf_bits (flagR s) (flagZ s) (flagE L s) (flagK s) w
  rw [dispatchVector, hr, hz, he, hk, hf]
  exact ⟨beq_iff_eq, beq_iff_eq, beq_iff_eq, Iff.rfl, Iff.rfl⟩

/-! ### The line formats -/

/-- Nine symbols are those made of their data bits and their ninth symbol (30_encoding.md R70). -/
theorem frameWordOf_fields (w : BitVec 9) : frameWordOf (frameDataOf w) (frameParityOf w) = w := by
  apply BitVec.eq_of_getLsbD_eq
  intro j hj
  rw [frameWordOf_getLsbD]
  split
  case isTrue h0 => simp [Nat.lt_one_iff.1 h0, frameParityOf]
  case isFalse h0 =>
    simp only [frameDataOf, BitVec.getLsbD_extractLsb', show j - 1 < 8 by omega, show 1 + (j - 1) = j by omega,
      decide_true, Bool.true_and]

/-- The row PADFRAME is the Character Frame of the pad (40_encoder.md R104). -/
theorem padWord_eq : 0b001000001#9 = frameWordOf Config.pad (encPar Config.pad) := by decide

/-- The patterns that the decoder takes: the row PADFRAME's, and the Character Frames of the other codes
(30_encoding.md R70; log entry 11). -/
theorem decodeFrame_cases {w : BitVec 9} {i : Instr} (h : decodeFrame w = .instr i) :
    (w = 0b001000001#9 ∧ i = .padFrame) ∨
    ∃ d, d ≠ Config.pad ∧ w = frameWordOf d (encPar d) ∧ i = .charFrame d (encPar d) := by
  unfold decodeFrame at h
  split at h
  case isTrue hw => cases h; exact .inl ⟨hw, rfl⟩
  case isFalse hw =>
    split at h
    case isFalse => cases h
    case isTrue hp =>
      cases h
      have hq : frameParityOf w = encPar (frameDataOf w) := beq_iff_eq.1 hp
      have hfields : w = frameWordOf (frameDataOf w) (encPar (frameDataOf w)) := by rw [← hq, frameWordOf_fields]
      refine .inr ⟨frameDataOf w, fun hd => hw ?_, hfields, by rw [hq]⟩
      rw [hfields, hd, padWord_eq]

/-- The patterns of twelve symbols that the decoder takes: the two markers (30_encoding.md R71). -/
theorem decodeMarker_cases {w : BitVec 12} {i : Instr} (h : decodeMarker w = .instr i) :
    (w = 0b111111111111#12 ∧ i = .startMarker) ∨ (w = 0b000000000000#12 ∧ i = .stopMarker) := by
  unfold decodeMarker at h
  split at h
  case isTrue hw => cases h; exact .inl ⟨hw, rfl⟩
  case isFalse =>
    split at h
    case isTrue hw => cases h; exact .inr ⟨hw, rfl⟩
    case isFalse => cases h

/-- A well-formed CHARFRAME is the Character Frame of a code other than the pad's (30_encoding.md R70; log entry 11). -/
theorem wf_charFrame {d : Byte} {q : Bool} : (Instr.charFrame d q).wf = true ↔ q = encPar d ∧ d ≠ Config.pad := by
  simp [Instr.wf, parityHolds, notPadPattern]

/-- Settles O1: a command by its operation code, a vector by its bits, a frame by its code, and the fixed words. -/
theorem decodeOfEncodeIsTheInstruction : Obligations.DecodeOfEncodeIsTheInstruction := by
  intro i hwf
  cases i with
  | push d => exact decode_encode_command 0b001#3 d
  | clear d => exact decode_encode_command 0b010#3 d
  | start d => exact decode_encode_command 0b011#3 d
  | cancel d => exact decode_encode_command 0b100#3 d
  | op0 d => exact decode_encode_command 0b000#3 d
  | op5 d => exact decode_encode_command 0b101#3 d
  | op6 d => exact decode_encode_command 0b110#3 d
  | op7 d => exact decode_encode_command 0b111#3 d
  | hold z e k f => revert z e k f; decide
  | finComplete k f => revert k f; decide
  | finCancel f => revert f; decide
  | emit f => revert f; decide
  | finInterrupt e k => revert e k; decide
  | wait e k => revert e k; decide
  | charFrame d q =>
    obtain ⟨rfl, hd⟩ := wf_charFrame.1 hwf
    exact (decode_characterFrame d).trans (by rw [if_neg hd])
  | startMarker | stopMarker | padFrame => rfl

/-- Settles O2: the fields of a word make it up again, in each format; of the line formats the accepted words are
listed. -/
theorem encodeOfDecodeIsTheWord : Obligations.EncodeOfDecodeIsTheWord := by
  intro c i h
  cases c with
  | cmd w word => cases h; exact ⟨encode_decodeCmd word, wf_decodeOp _ _⟩
  | sched v => cases h; exact encode_decodeSched v
  | frame w =>
    rcases decodeFrame_cases h with ⟨rfl, rfl⟩ | ⟨d, hd, rfl, rfl⟩
    · exact ⟨rfl, rfl⟩
    · exact ⟨rfl, wf_charFrame.2 ⟨rfl, hd⟩⟩
  | marker w => rcases decodeMarker_cases h with ⟨rfl, rfl⟩ | ⟨rfl, rfl⟩ <;> exact ⟨rfl, rfl⟩

/-! ### The parity of a Character Frame -/

/-- The decoder takes nine symbols exactly when the ninth is the parity of the others (30_encoding.md R70). -/
theorem decodeFrame_accepts_iff (w : BitVec 9) :
    (∃ i, decodeFrame w = .instr i) ↔ frameParityOf w = encPar (frameDataOf w) := by
  unfold decodeFrame
  split
  case isTrue hw => subst hw; exact iff_of_true ⟨_, rfl⟩ (by decide)
  case isFalse =>
    rw [parityHolds]
    by_cases hp : frameParityOf w = encPar (frameDataOf w) <;> simp [hp]

/-- The number of indices at which `f` is 1 is odd when the exclusive or of the values is 1. -/
theorem bodd_countP (f : Nat → Bool) (l : List Nat) : (l.countP f).bodd = l.foldr (fun k b => f k ^^ b) false := by
  induction l with
  | nil => simp
  | cons k l ih => cases hk : f k <;> simp [hk, ih]

/-- Data bit `j` of nine symbols stands in bit `j + 1` (30_encoding.md R70). -/
theorem frameDataOf_getLsbD (w : BitVec 9) {j : Nat} (h : j < 8) :
    (frameDataOf w).getLsbD j = w.getLsbD (j + 1) := by
  simp [frameDataOf, h, Nat.add_comm 1 j]

/-- The exclusive or of the nine symbols is that of the ninth and the parity of the data bits (40_encoder.md R102). -/
theorem xor_symbols (w : BitVec 9) :
    (List.range 9).foldr (fun k b => w.getLsbD k ^^ b) false = (frameParityOf w ^^ encPar (frameDataOf w)) := by
  have hrange : List.range 9 = [0, 1, 2, 3, 4, 5, 6, 7, 8] := rfl
  simp (disch := omega) only [hrange, List.foldr, Bool.xor_false, frameParityOf, encPar, frameDataOf_getLsbD,
    Nat.reduceAdd]
  simp only [Bool.xor_comm]

/-- Settles O6: the ninth symbol is the parity of the others when the number of ones is even. -/
theorem characterFramesAreTheEvenPatterns : Obligations.CharacterFramesAreTheEvenPatterns := by
  intro w
  have hbodd := bodd_countP (fun k => w.getLsbD k) (List.range 9)
  rw [xor_symbols] at hbodd
  refine (decodeFrame_accepts_iff w).trans ?_
  rw [Nat.mod_two_of_bodd, hbodd]
  cases frameParityOf w <;> cases encPar (frameDataOf w) <;> simp

end Sys2Proof.Machine
end

section
/-! PROOF. A word placed where the next cycle takes its instructions from (10_state.md R31, 30_encoding.md R77,
20_memory.md R51; log entries 10, 16) is what that cycle runs, format by format. -/

namespace Sys2Proof.Machine

variable {p : Params} {s : State} {i : Instr}

/-! ### A command word -/

@[simp] theorem placeCommand_ports {w : Nat} (s : State) (word : BitVec (3 + w)) :
    (s.placeCommand word).ports = { s.ports with
      rst := false, cmdValid := true, cmdOp := cmdOpOf word, cmdData := (cmdDataOf word).toNat } := rfl

/-- A placed command word is fetched as its command (41_commands.md R120). -/
theorem fetchCommand_placeCommand (p : Params) (s : State) (word : BitVec (3 + p.charW)) :
    fetchCommand p (s.placeCommand word).ports = some (decodeCmd word) := by
  rw [fetchCommand_eq]
  simp [decodeCmd, PortIn.code]

/-- A command fits the block of its width alone (00_scope.md R7). -/
theorem fits_decodeCmd {w : Nat} {word : BitVec (3 + w)} (h : (decodeCmd word).fits p = true) : w = p.charW := by
  obtain ⟨-, hwidth, -⟩ := Laws.encode_decodeOp (cmdOpOf word) ⟨w, cmdDataOf word⟩
  simpa [Instr.fits, decodeCmd, hwidth] using h

/-! ### A dispatch vector -/

/-- STATE as placed for a vector is Running when its bit `r` says so. -/
theorem flagR_placeVector (s : State) (v : BitVec 5) : flagR (s.placeVector v) = v.getLsbD 4 := by
  have hstate : (s.placeVector v).state =
      if v.getLsbD 4 then .running else if s.state = .running then .idle else s.state := rfl
  rw [flagR, hstate]
  cases v.getLsbD 4 <;> by_cases hr : s.state = .running <;> simp [hr]

/-- SLOTCNT as placed for a vector is 0 when its bit `z` says so. -/
theorem flagZ_placeVector (s : State) (v : BitVec 5) : flagZ (s.placeVector v) = v.getLsbD 3 := by
  have hslotcnt : (s.placeVector v).slotcnt =
      if v.getLsbD 3 then 0 else if s.slotcnt = 0 then 1 else s.slotcnt := rfl
  rw [flagZ, hslotcnt]
  cases v.getLsbD 3 <;> by_cases hz : s.slotcnt = 0 <;> simp [hz]

/-- CURSOR as placed for a vector is at the end when its bit `e` says so; the sequence is not empty. -/
theorem flagE_placeVector (s : State) (v : BitVec 5) : flagE (seqLen s) (s.placeVector v) = v.getLsbD 2 := by
  have hcursor : (s.placeVector v).cursor =
      if v.getLsbD 2 then seqLen s else if s.cursor = seqLen s then 0 else s.cursor := rfl
  have hlen : seqLen s ≠ 0 := by simp [seqLen]
  rw [flagE, hcursor]
  cases v.getLsbD 2 <;> by_cases he : s.cursor = seqLen s <;> simp [he, hlen.symm]

/-- The registers placed for a vector compute it (30_encoding.md R77). -/
theorem dispatchVector_placeVector (s : State) (v : BitVec 5) :
    dispatchVector (seqLen s) (s.placeVector v) (v.getLsbD 0) = v := by
  have hk : flagK (s.placeVector v) = v.getLsbD 1 := rfl
  rw [dispatchVector, flagR_placeVector, flagZ_placeVector, flagE_placeVector, hk, vectorOf_getLsbD]

/-- A placed dispatch vector selects its operation (42_scheduler.md R140). -/
theorem fetchOp_placeVector (s : State) (v : BitVec 5) :
    fetchOp (seqLen (s.placeVector v)) (s.placeVector v) (s.placeVector v).ports = decodeSched v :=
  congrArg decodeSched (dispatchVector_placeVector s v)

/-! ### A line format -/

/-- In a session, at a slot boundary with a symbol remaining and no cancellation, the cycle selects EMIT
(42_scheduler.md R140). -/
theorem fetchOp_emit {L : Nat} {ports : PortIn} (hr : s.state = .running) (hz : s.slotcnt = 0) (he : s.cursor ≠ L)
    (hk : s.cancel = false) : fetchOp L s ports = .emit ports.waitFault := by
  simp [fetchOp_eq, hr, hz, he, hk]

/-- The next cycle of `s` has no reset and no command, selects EMIT, and stands in the line format that decodes to `i`
(20_memory.md R51, 42_scheduler.md R141). -/
structure EmitsIn (p : Params) (i : Instr) (s : State) : Prop where
  no_reset : s.ports.rst = false
  no_command : fetchCommand p s.ports = none
  emits : ∃ f, fetchOp (seqLen s) s s.ports = .emit f
  line : decode (lineWordAt s s.cursor) = .instr i

/-- With the cursor placed below the end of the sequence the next cycle sends the symbol there. -/
theorem emitsIn_placeCursor {n : Nat} (hn : n < seqLen s) (hline : decode (lineWordAt s n) = .instr i) :
    EmitsIn p i (s.placeCursor n) where
  no_reset := rfl
  no_command := rfl
  emits := ⟨_, fetchOp_emit rfl rfl hn.ne rfl⟩
  line := hline

/-- The framed list has the pad at LEN (40_encoder.md R104). -/
theorem charAt_len (s : State) : charAt s s.len = Config.pad := if_neg (lt_irrefl _)

/-- The first character placed is the first of the framed list (40_encoder.md R104). -/
theorem charAt_placeChar (s : State) (c : Byte) : charAt (s.placeChar c) 0 = c :=
  (if_pos (Nat.lt_of_lt_of_le Nat.zero_lt_one (le_max_left 1 s.len))).trans (cell_store_same _ _ _)

/-- At the first symbol of character `j` the line shows its Character Frame (40_encoder.md R108). -/
theorem lineWordAt_firstSymbol {j : Nat} (hj : j ≤ s.len) :
    lineWordAt s (Config.markerLen + Config.frameLen * j) =
      .frame (frameWordOf (charAt s j) (encPar (charAt s j))) := by
  have hindex : charIndex (12 + 9 * j) = j := by
    simp only [charIndex, Config.markerLen, Config.frameLen]
    omega
  have := lineWordAt_frame (s := s) (i := 12 + 9 * j) (by omega) (by omega)
  rwa [hindex] at this

/-- A placed Character Frame is the one the next EMIT stands in: the pad's at LEN, any other at the first character. -/
theorem emitsIn_place_frame {w : BitVec 9} (h : decode (.frame w) = .instr i) : EmitsIn p i (s.place (.frame w)) := by
  rcases decodeFrame_cases h with ⟨rfl, rfl⟩ | ⟨d, hd, rfl, rfl⟩
  · refine emitsIn_placeCursor (n := Config.markerLen + Config.frameLen * s.len) ?_ ?_
    · simp only [Config.markerLen, Config.frameLen, seqLen]
      omega
    · rw [lineWordAt_firstSymbol le_rfl, charAt_len]
      rfl
  · have hplace : s.place (.frame (frameWordOf d (encPar d))) = (s.placeChar d).placeCursor Config.markerLen := by
      simp [State.place, h]
    rw [hplace]
    refine emitsIn_placeCursor ?_ ?_
    · simp only [Config.markerLen, seqLen]
      omega
    · have hline := lineWordAt_firstSymbol (Nat.zero_le (s.placeChar d).len)
      rw [charAt_placeChar] at hline
      exact hline ▸ h

/-- A placed marker is the one the next EMIT stands in, at its first symbol. -/
theorem emitsIn_place_marker {w : BitVec 12} (h : decode (.marker w) = .instr i) :
    EmitsIn p i (s.place (.marker w)) := by
  rcases decodeMarker_cases h with ⟨rfl, rfl⟩ | ⟨rfl, rfl⟩
  · exact emitsIn_placeCursor (n := 0) (by simp [seqLen]) rfl
  · have hbody : seqLen s - Config.markerLen = 12 + 9 * (s.len + 1) := by
      simp only [Config.markerLen, seqLen]
      omega
    refine emitsIn_placeCursor (n := seqLen s - Config.markerLen) ?_ ?_
    · simp only [Config.markerLen, seqLen]
      omega
    · rw [hbody, lineWordAt_stopMarker (by omega) (by omega)]
      rfl

/-- The format of an instruction is that of its word. -/
theorem format_of_decode {c : CodeWord} (h : decode c = .instr i) : i.format = c.format := by
  obtain ⟨rfl, -⟩ := encodeOfDecodeIsTheWord c i h
  cases i <;> rfl

/-- Settles O7: each format by its placing; the premises of the other formats do not hold. -/
theorem placedWordIsRunByTheNextStep : Obligations.PlacedWordIsRunByTheNextStep := by
  intro p s c i h hfits
  have hformat := format_of_decode h
  cases c with
  | cmd w word =>
    cases h
    obtain rfl := fits_decodeCmd hfits
    have hplace : s.place (.cmd p.charW word) = s.placeCommand word := rfl
    rw [hplace, hformat]
    exact ⟨rfl, fun _ => fetchCommand_placeCommand p s word, nofun, nofun⟩
  | sched v =>
    cases h
    have hplace : s.place (.sched v) = s.placeVector v := rfl
    rw [hplace, hformat]
    exact ⟨rfl, nofun, fun _ => ⟨rfl, fetchOp_placeVector s v⟩, nofun⟩
  | frame w =>
    have hrun : EmitsIn p i (s.place (.frame w)) := emitsIn_place_frame h
    rw [hformat]
    exact ⟨hrun.no_reset, nofun, nofun, fun _ => ⟨hrun.no_command, hrun.emits, hrun.line⟩⟩
  | marker w =>
    have hrun : EmitsIn p i (s.place (.marker w)) := emitsIn_place_marker h
    rw [hformat]
    exact ⟨hrun.no_reset, nofun, nofun, fun _ => ⟨hrun.no_command, hrun.emits, hrun.line⟩⟩

end Sys2Proof.Machine
end

section
/-! PROOF. The instructions one by one: a command answers a response and, where it refuses, writes nothing beside it
(30_encoding.md R75); a line format sends its symbol at the cursor (30_encoding.md R70, R71; log entry 10). -/

namespace Sys2Proof.Machine

variable {s t : State}

/-- A command ends with its response; the state that it answers from is the one it found, or the response is OK. -/
theorem exec_command {i : Instr} (hi : i.format = .cmd) (h : exec i s = .next t) :
    ∃ u c, t = u.respond c ∧ (u = s ∨ c = .ok) := by
  cases i with
  | push d =>
    rcases pushAt_cases h with ⟨-, rfl⟩ | ⟨-, -, rfl⟩ | ⟨-, -, rfl⟩
    · exact ⟨s, _, rfl, .inl rfl⟩
    · exact ⟨s, _, rfl, .inl rfl⟩
    · exact ⟨_, _, rfl, .inr rfl⟩
  | clear d =>
    rcases clearOp_cases s with ⟨-, hc⟩ | ⟨-, hc⟩ <;> cases hc.symm.trans h
    · exact ⟨s, _, rfl, .inl rfl⟩
    · exact ⟨_, _, rfl, .inr rfl⟩
  | start d =>
    rcases startOp_cases s with ⟨-, hc⟩ | ⟨-, -, hc⟩ | ⟨-, -, hc⟩ <;> cases hc.symm.trans h
    · exact ⟨s, _, rfl, .inl rfl⟩
    · exact ⟨s, _, rfl, .inl rfl⟩
    · exact ⟨_, _, rfl, .inr rfl⟩
  | cancel d => cases h; exact ⟨_, _, rfl, .inr rfl⟩
  | op0 d | op5 d | op6 d | op7 d => cases h; exact ⟨s, _, rfl, .inl rfl⟩
  | hold | finComplete | finCancel | emit | finInterrupt | wait | charFrame | startMarker | stopMarker | padFrame =>
    cases hi

/-- Settles O21: `exec_command`; with another code than OK the response alone is written. -/
theorem refusedCommandChangesNoRegister : Obligations.RefusedCommandChangesNoRegister := by
  intro i s t hi h
  obtain ⟨u, c, rfl, hu⟩ := exec_command hi h
  refine ⟨rfl, fun hc => ?_⟩
  obtain rfl : u = s := hu.resolve_right hc
  rfl

/-- Symbol `k` of nine is the ninth at 8, else bit `7 - k` of the data (30_encoding.md R70). -/
theorem cfSymbol_eq (d : Byte) (q : Symbol) {k : Nat} (h : k ≤ 8) :
    cfSymbol d q k = if k = 8 then q else d.getLsbD (7 - k) := by
  unfold cfSymbol
  by_cases h8 : k = 8
  · simp [h8]
  · rw [if_neg h8, if_pos (by omega)]

/-- Settles O27: each format's meaning, the symbol of a CHARFRAME by its index in the frame. -/
theorem lineFormatResults : Obligations.LineFormatResults := by
  intro d q s
  refine ⟨rfl, rfl, rfl, ?_⟩
  have hindex : (s.cursor - 12) % 9 ≤ 8 := Nat.le_of_lt_succ (Nat.mod_lt _ (Nat.succ_pos 8))
  rw [← cfSymbol_eq d q hindex]
  rfl

end Sys2Proof.Machine
end

section
/-! PROOF. The script SEND (30_encoding.md R79, R80): what its lines drive on the ports of each cycle, what the cycles
of CLEAR, PUSH and START leave, and by induction on the text the message that is loaded. -/

namespace Sys2Proof.Machine

variable {p : Params} {s t : State}

/-! ### The ports of a script -/

/-- The ports `i` of cycle `n` with the lines of that cycle applied in order; the tie to the model is
`scriptPorts_eq`. -/
def PortIn.driveAll (n : Nat) (lines : List ScriptLine) (i : PortIn) : PortIn :=
  lines.foldl (fun i l => if l.at_ = n then i.drive l.op else i) i

theorem scriptPorts_eq (lines : List ScriptLine) (n : Nat) : scriptPorts lines n = PortIn.quiet.driveAll n lines := rfl

theorem driveAll_append (n : Nat) (ls ms : List ScriptLine) (i : PortIn) :
    i.driveAll n (ls ++ ms) = (i.driveAll n ls).driveAll n ms := List.foldl_append

/-- A line of the cycle is applied. -/
theorem driveAll_cons_same (n : Nat) (o : ScriptOp) (ls : List ScriptLine) (i : PortIn) :
    i.driveAll n (⟨n, o⟩ :: ls) = (i.drive o).driveAll n ls := by simp [PortIn.driveAll]

/-- A line of another cycle is not. -/
theorem driveAll_cons_other {m n : Nat} (h : m ≠ n) (o : ScriptOp) (ls : List ScriptLine) (i : PortIn) :
    i.driveAll n (⟨m, o⟩ :: ls) = i.driveAll n ls := by simp [PortIn.driveAll, h]

/-- Outside its cycles `PUSHS` drives nothing (30_encoding.md R80). -/
theorem driveAll_pushsLines_other {n m : Nat} {text : List Nat} (h : n < m ∨ m + text.length ≤ n) (i : PortIn) :
    i.driveAll n (pushsLines m text) = i := by
  induction text generalizing m with
  | nil => rfl
  | cons c cs ih =>
    rw [List.length_cons] at h
    rw [pushsLines, driveAll_cons_other (by omega), ih (by omega)]

/-- In its cycle `k` `PUSHS` drives the PUSH of character `k` (30_encoding.md R80). -/
theorem driveAll_pushsLines {m k : Nat} {text : List Nat} (h : k < text.length) (i : PortIn) :
    i.driveAll (m + k) (pushsLines m text) = i.drive (.push text[k]) := by
  induction text generalizing m k with
  | nil => cases h
  | cons c cs ih =>
    cases k with
    | zero => exact (driveAll_cons_same _ _ _ _).trans (driveAll_pushsLines_other (.inl (Nat.lt_succ_self m)) _)
    | succ k =>
      rw [pushsLines, driveAll_cons_other (by omega), show m + (k + 1) = m + 1 + k by omega,
        ih (Nat.lt_of_succ_lt_succ h)]
      rfl

variable {text : List Nat}

/-- SEND drives CLEAR in its first cycle (30_encoding.md R80). -/
theorem scriptPorts_send_clear (text : List Nat) :
    scriptPorts (sendLines 0 text) 0 = PortIn.quiet.command 0b010#3 0 := by
  rw [scriptPorts_eq, sendLines, List.cons_append, driveAll_cons_same, driveAll_append,
    driveAll_pushsLines_other (.inl (Nat.lt_succ_self 0)), driveAll_cons_other (Nat.succ_ne_zero _)]
  rfl

/-- Then it drives PUSH of each character (30_encoding.md R80). -/
theorem scriptPorts_send_push {k : Nat} (h : k < text.length) :
    scriptPorts (sendLines 0 text) (1 + k) = PortIn.quiet.command 0b001#3 text[k] := by
  rw [scriptPorts_eq, sendLines, List.cons_append, driveAll_cons_other (by omega), driveAll_append,
    driveAll_pushsLines h, driveAll_cons_other (by omega)]
  rfl

/-- Then it drives START (30_encoding.md R80). -/
theorem scriptPorts_send_start (text : List Nat) :
    scriptPorts (sendLines 0 text) (1 + text.length) = PortIn.quiet.command 0b011#3 0 := by
  rw [scriptPorts_eq, sendLines, List.cons_append, driveAll_cons_other (by omega), driveAll_append,
    driveAll_pushsLines_other (.inr (by omega)), show 0 + text.length + 1 = 1 + text.length by omega,
    driveAll_cons_same]
  rfl

/-! ### The cycles of the commands, outside a session -/

/-- A cycle with an accepted CLEAR (41_commands.md R122). -/
theorem stepAt_clear (hi : s.state ≠ .running) {d : Nat} (hports : s.ports = PortIn.quiet.command 0b010#3 d)
    (h : stepAt p s = .next t) : t = { (s.taken p).noEvent with len := 0 } := by
  cases cycleCase_of_stepAt h with
  | clear => rfl
  | reset hrst => simp [hports, PortIn.command, PortIn.quiet] at hrst
  | complete _ hr | cancel _ hr | emit _ hr | interrupt _ hr | wait _ hr => exact absurd hr hi
  | push _ _ _ ho | start _ _ _ ho => simp [hports, PortIn.command] at ho
  | hold _ _ _ hno => simp [hports, PortIn.command] at hno

/-- A cycle with a PUSH accepted into a buffer that is not full (41_commands.md R121). -/
theorem stepAt_push (hi : s.state ≠ .running) (hl : s.len < p.msgMax) {d : Nat}
    (hports : s.ports = PortIn.quiet.command 0b001#3 d) (h : stepAt p s = .next t) :
    t = { (s.taken p).noEvent with
      msg := Memory.store s.msg s.len (encCode (s.ports.code p)), len := s.len + 1 } := by
  cases cycleCase_of_stepAt h with
  | push => rfl
  | reset hrst => simp [hports, PortIn.command, PortIn.quiet] at hrst
  | complete _ hr | cancel _ hr | emit _ hr | interrupt _ hr | wait _ hr => exact absurd hr hi
  | clear _ _ _ ho | start _ _ _ ho => simp [hports, PortIn.command] at ho
  | hold _ _ _ _ hno => simp [hports, PortIn.command, hl.ne] at hno

/-! ### The message -/

/-- The characters of the message: what the live cells hold (10_state.md R25). -/
def liveChars (s : State) : List Byte := (List.range s.len).map (Memory.cell s.msg)

/-- The framed list is the message and one pad (40_encoder.md R104). -/
theorem asmChars_eq (s : State) : asmChars s = liveChars s ++ [Config.pad] := by
  have hlive : (List.range s.len).map (charAt s) = liveChars s :=
    List.map_congr_left fun j hj => if_pos (List.mem_range.1 hj)
  rw [asmChars, List.range_succ, List.map_append, hlive, List.map_singleton, charAt_len]

/-- A character stored in cell LEN comes after those of the message. -/
theorem liveChars_append (s : State) (v : Byte) :
    liveChars { s with msg := Memory.store s.msg s.len v, len := s.len + 1 } = liveChars s ++ [v] := by
  have hold : (List.range s.len).map (Memory.cell (Memory.store s.msg s.len v)) = liveChars s :=
    List.map_congr_left fun j hj => cell_store_other _ _ (List.mem_range.1 hj).ne
  simp only [liveChars, List.range_succ, List.map_append, List.map_singleton, cell_store_same] at hold ⊢
  rw [hold]

/-- A code keeps its low 8 bits on a port of at least 8 lines (00_scope.md R7, 40_encoder.md R100). -/
theorem encCode_code (hp : p.Ok) (i : PortIn) : encCode (i.code p) = BitVec.ofNat 8 i.cmdData := by
  obtain ⟨-, -, hwidth⟩ := hp
  apply BitVec.eq_of_toNat_eq
  simp only [encCode, PortIn.code, BitVec.toNat_setWidth, BitVec.toNat_ofNat]
  exact Nat.mod_mod_of_dvd _ (pow_dvd_pow 2 hwidth)

/-- A cycle per character loads a text behind the message, outside a session and with room for it. -/
theorem runFor_pushes (hp : p.Ok) {text : List Nat} (hinv : Inv p s) (hi : s.state ≠ .running)
    (hroom : s.len + text.length ≤ p.msgMax)
    (hports : ∀ k (h : k < text.length), s.portsAt k = PortIn.quiet.command 0b001#3 text[k]) :
    ∃ t, runFor (stepAt p) text.length s = .next t ∧ Inv p t ∧ t.state ≠ .running ∧
      t.len = s.len + text.length ∧ liveChars t = liveChars s ++ text.map (BitVec.ofNat 8) ∧
      ∀ j, t.portsAt j = s.portsAt (text.length + j) := by
  induction text generalizing s with
  | nil => exact ⟨s, rfl, hinv, hi, rfl, by simp, fun j => by simp⟩
  | cons c cs ih =>
    rw [List.length_cons] at hroom
    have hpush : s.ports = PortIn.quiet.command 0b001#3 c := portsAt_zero s ▸ hports 0 (Nat.succ_pos _)
    obtain ⟨v, hv⟩ := stepAt_next hinv.len_le
    obtain rfl := stepAt_push hi (by omega) hpush hv
    have hroom' : s.len + 1 + cs.length ≤ p.msgMax := by omega
    obtain ⟨t, hrun, htinv, hti, htlen, htchars, htports⟩ := ih (hinv.stepAt hv) hi hroom' fun k hk =>
      (stepAt_portsAt hv k).trans (hports (k + 1) (Nat.succ_lt_succ hk))
    refine ⟨t, (runFor_first hv _).trans hrun, htinv, hti, ?_, ?_, fun j => ?_⟩
    · rw [htlen, List.length_cons, Nat.add_comm cs.length, ← Nat.add_assoc]
    · have hchars := liveChars_append s (encCode (s.ports.code p))
      rw [htchars, List.map_cons, List.append_cons]
      congr 1
      rwa [encCode_code hp, hpush] at hchars ⊢
    · rw [htports, stepAt_portsAt hv, List.length_cons, Nat.add_right_comm]

/-- Settles O60: the cycle of CLEAR, `runFor_pushes` on the empty message, the cycle of START. -/
theorem sendScriptStartsTheText : Obligations.SendScriptStartsTheText := by
  intro p hp s text hinv hi hne hfit hports
  have hclearports : s.ports = PortIn.quiet.command 0b010#3 0 :=
    portsAt_zero s ▸ (hports 0 (Nat.succ_pos _)).trans (scriptPorts_send_clear text)
  obtain ⟨v, hv⟩ := stepAt_next hinv.len_le
  have hlater (j : Nat) (hj : j ≤ text.length) : v.portsAt j = scriptPorts (sendLines 0 text) (1 + j) := by
    rw [stepAt_portsAt hv, Nat.add_comm j 1, hports _ (by omega)]
  obtain rfl := stepAt_clear hi hclearports hv
  obtain ⟨w, hpushes, hwinv, hwi, hwlen, hwchars, hwports⟩ :=
    runFor_pushes hp (hinv.stepAt hv) hi ((Nat.zero_add _).trans_le hfit) fun k hk =>
      (hlater k hk.le).trans (scriptPorts_send_push hk)
  replace hwlen : w.len = text.length := hwlen.trans (Nat.zero_add _)
  have hstartports : w.ports = PortIn.quiet.command 0b011#3 0 := by
    rw [← portsAt_zero, hwports, Nat.add_zero, hlater _ le_rfl, scriptPorts_send_start]
  obtain ⟨t, ht⟩ := stepAt_next hwinv.len_le
  obtain rfl := stepAt_start (by rw [hstartports]; rfl) ⟨by rw [hstartports]; rfl, hwi, by omega⟩ ht
  refine ⟨_, (runFor_first hv _).trans (runFor_succ_next hpushes ht), rfl, rfl, rfl, rfl, hwlen, ?_⟩
  exact (asmChars_eq _).trans (congrArg (· ++ [Config.pad]) hwchars)

end Sys2Proof.Machine
end

section
/-! PROOF. The Character Frame (40_encoder.md R100 to R103): narrowing, the nine symbols of a code and their parity, and
the reference decoder's reading of them (R113). -/

namespace Sys2Proof.Machine

/-- Settles O8: cutting a word to its low 8 bits is reduction modulo `2 ^ 8`. -/
theorem narrowingIsModulo256 : Obligations.NarrowingIsModulo256 := fun _ v => BitVec.toNat_setWidth 8 v

/-! ### The symbols of a frame -/

/-- The Character Frame, listed by FRAME_BIT (40_encoder.md R103). -/
theorem encFrame_eq_map (c : Byte) : encFrame c = (List.range 9).map (frameBit c) := rfl

@[simp] theorem encFrame_length (c : Byte) : (encFrame c).length = 9 := rfl

theorem encFrame_getElem? (c : Byte) {k : Nat} (h : k < 9) : (encFrame c)[k]? = some (frameBit c k) := by
  rw [encFrame_eq_map, List.getElem?_map, List.getElem?_range h, Option.map_some]

/-- The first eight symbols are the data bits, most significant first (40_encoder.md R101). -/
theorem frameBit_data (c : Byte) {k : Nat} (h : k ≤ 7) : frameBit c k = c.getLsbD (7 - k) := if_pos h

/-! ### The parity -/

/-- ENC_PAR is 1 when the number of ones in the code is odd (40_encoder.md R102). -/
theorem encPar_eq_bodd (c : Byte) : encPar c = ((List.range 8).countP fun k => c.getLsbD k).bodd := by
  have hrange : List.range 8 = [0, 1, 2, 3, 4, 5, 6, 7] := rfl
  rw [bodd_countP, hrange]
  simp only [List.foldr, Bool.xor_false, encPar]
  simp only [Bool.xor_comm]

/-- The parity symbol makes the number of ones in a frame even (40_encoder.md R102). -/
theorem encFrame_count_even (c : Byte) : (encFrame c).count true % 2 = 0 := by
  have hones : (encFrame c).count true = (List.range 9).countP (frameBit c) := by
    simp only [encFrame_eq_map, List.count_eq_countP, List.countP_map, Function.comp_def, beq_true]
  have hxor : (List.range 9).foldr (fun k b => frameBit c k ^^ b) false = (encPar c ^^ encPar c) := by
    have hrange : List.range 9 = [0, 1, 2, 3, 4, 5, 6, 7, 8] := rfl
    simp only [hrange, List.foldr, Bool.xor_false, ← Bool.xor_assoc]
    rfl
  rw [Nat.mod_two_of_bodd, hones, bodd_countP, hxor, Bool.xor_self]
  rfl

/-! ### The code read back -/

/-- Bit `j` of the number that some symbols are is the symbol `j` places before the last (40_encoder.md R113). -/
theorem byteOfSymbols_getLsbD (bits : List Symbol) {j : Nat} (h : j < 8) :
    (byteOfSymbols bits).getLsbD j = bits.reverse.getD j false := by
  induction bits using List.reverseRecOn generalizing j with
  | nil => simp [byteOfSymbols]
  | append_singleton bits b ih =>
    have hlast : byteOfSymbols (bits ++ [b]) = (byteOfSymbols bits <<< 1) ||| (BitVec.ofBool b).setWidth 8 :=
      List.foldl_concat ..
    rw [hlast, List.reverse_concat]
    cases j with
    | zero => simp
    | succ j =>
      have hj : j < 8 := Nat.lt_of_succ_lt h
      rw [List.getD_cons_succ, ← ih hj]
      simp [h, hj]

/-- The eight data symbols are the code again (40_encoder.md R113). -/
theorem byteOfSymbols_encData (c : Byte) : byteOfSymbols (encData c) = c := by
  apply BitVec.eq_of_getLsbD_eq
  intro j hj
  have hreverse : (encData c).reverse = (List.range 8).map c.getLsbD := rfl
  rw [byteOfSymbols_getLsbD _ hj, hreverse]
  simp [hj]

/-- Different codes have different frames: the first eight symbols give the code. -/
theorem encFrame_injective : Function.Injective encFrame := by
  intro c d h
  have hdata : encData c = encData d := congrArg (List.take 8) h
  rw [← byteOfSymbols_encData c, hdata, byteOfSymbols_encData]

/-- Settles O9: FRAME_BIT lists the frame, and the parity is the count's last bit. -/
theorem characterFrameLayout : Obligations.CharacterFrameLayout := by
  refine ⟨fun c => ⟨rfl, fun k hk => ?_, rfl, fun k hk => encFrame_getElem? c (Nat.lt_succ_of_le hk), ?_,
    encFrame_count_even c⟩, fun _ _ h => encFrame_injective h⟩
  · rw [encFrame_getElem? c (by omega), frameBit_data c hk]
  · rw [encPar_eq_bodd, Nat.mod_two_of_bodd]
    simp

end Sys2Proof.Machine
end

section
/-! PROOF. The Transmission Frame (40_encoder.md R104 to R109, R113): its symbols by their index, its length, and the
reference decoder's reading of it. -/

namespace Sys2Proof.Machine

variable {s : State}

/-! ### The body -/

/-- A body of `n` characters has `9 * n` symbols (40_encoder.md R105). -/
theorem flatMap_encFrame_length (cs : List Byte) : (cs.flatMap encFrame).length = 9 * cs.length := by
  simp [List.length_flatMap, Nat.mul_comm]

/-- Symbol `k` of the frame with index `j` stands `9 * j` symbols further on in the body (40_encoder.md R105). -/
theorem flatMap_encFrame_getElem? (cs : List Byte) (j : Nat) {k : Nat} (hk : k < 9) :
    (cs.flatMap encFrame)[9 * j + k]? = cs[j]?.map (frameBit · k) := by
  induction cs generalizing j with
  | nil => simp
  | cons c cs ih =>
    rw [List.flatMap_cons]
    cases j with
    | zero =>
      rw [Nat.mul_zero, Nat.zero_add, List.getElem?_append_left (by rwa [encFrame_length]), encFrame_getElem? c hk]
      rfl
    | succ j =>
      have hindex : 9 * (j + 1) + k - (encFrame c).length = 9 * j + k := by rw [encFrame_length]; omega
      rw [List.getElem?_append_right (by rw [encFrame_length]; omega), hindex, ih, List.getElem?_cons_succ]

@[simp] theorem asmChars_length (s : State) : (asmChars s).length = s.len + 1 := by simp [asmChars]

theorem asmBody_length (s : State) : (asmBody s).length = 9 * (s.len + 1) := by
  rw [asmBody, flatMap_encFrame_length, asmChars_length]

theorem asmBody_getElem? {j k : Nat} (hj : j ≤ s.len) (hk : k < 9) :
    (asmBody s)[9 * j + k]? = some (frameBit (charAt s j) k) := by
  rw [asmBody, flatMap_encFrame_getElem? _ j hk, asmChars, List.getElem?_map,
    List.getElem?_range (Nat.lt_succ_of_le hj)]
  rfl

/-! ### The frame by its index -/

@[simp] theorem startMarkerSymbols_length : startMarkerSymbols.length = 12 := rfl

@[simp] theorem stopMarkerSymbols_length : stopMarkerSymbols.length = 12 := rfl

/-- SEQ_LEN is the number of symbols of the Transmission Frame (40_encoder.md R107). -/
theorem asmFrame_length (s : State) : (asmFrame s).length = seqLen s := by
  simp only [asmFrame, List.length_append, startMarkerSymbols_length, stopMarkerSymbols_length, asmBody_length, seqLen]
  omega

/-- Below 12 stands the start marker (40_encoder.md R106). -/
theorem asmFrame_start {i : Nat} (h : i < 12) : (asmFrame s)[i]? = some true := by
  rw [asmFrame, List.append_assoc, List.getElem?_append_left h]
  exact List.getElem?_replicate_of_lt h

/-- Behind it stands the body, frame by frame (40_encoder.md R105, R106). -/
theorem asmFrame_body {j k : Nat} (hj : j ≤ s.len) (hk : k < 9) :
    (asmFrame s)[12 + 9 * j + k]? = some (frameBit (charAt s j) k) := by
  have hbody : 9 * j + k < (asmBody s).length := by rw [asmBody_length]; omega
  have hindex : 12 + 9 * j + k - startMarkerSymbols.length = 9 * j + k := by
    rw [startMarkerSymbols_length, Nat.add_assoc, Nat.add_sub_cancel_left]
  rw [asmFrame, List.append_assoc, List.getElem?_append_right (by rw [startMarkerSymbols_length]; omega), hindex,
    List.getElem?_append_left hbody, asmBody_getElem? hj hk]

/-- Behind the body, up to SEQ_LEN, stands the stop marker (40_encoder.md R106). -/
theorem asmFrame_stop {i : Nat} (hlo : 12 + 9 * (s.len + 1) ≤ i) (hhi : i < seqLen s) :
    (asmFrame s)[i]? = some false := by
  have hbefore : (startMarkerSymbols ++ asmBody s).length = 12 + 9 * (s.len + 1) := by
    rw [List.length_append, startMarkerSymbols_length, asmBody_length]
  rw [asmFrame, List.getElem?_append_right (hbefore.trans_le hlo), hbefore]
  exact List.getElem?_replicate_of_lt (by unfold seqLen at hhi; simp only [Config.markerLen]; omega)

/-- The Transmission Frame by division and remainder, in the form in which `seqBit_next` has SEQ_BIT (40_encoder.md
R108). -/
theorem asmFrame_getElem? {i : Nat} (h : i < seqLen s) :
    (asmFrame s)[i]? = some
      (if i < 12 then true
       else if i < 12 + 9 * (s.len + 1) then frameBit (charAt s ((i - 12) / 9)) ((i - 12) % 9)
       else false) := by
  split
  case isTrue hmarker => exact asmFrame_start hmarker
  case isFalse hmarker =>
    split
    case isTrue hbody =>
      have hindex : i = 12 + 9 * ((i - 12) / 9) + (i - 12) % 9 := by omega
      have hframe := asmFrame_body (s := s) (j := (i - 12) / 9) (k := (i - 12) % 9) (by omega) (by omega)
      rwa [← hindex] at hframe
    case isFalse hbody => exact asmFrame_stop (Nat.le_of_not_lt hbody) h

/-- Settles O10: the length of the frame, and CURSOR's width by `lt_two_pow_curW`. -/
theorem sequenceLengthLaw : Obligations.SequenceLengthLaw := fun s =>
  ⟨rfl, asmFrame_length s, by unfold seqLen; omega,
    fun _ hl => ⟨seqLen_le_lMax hl, lt_two_pow_curW (seqLen_le_lMax hl)⟩⟩

/-- Settles O11: the three ranges of the frame, the pad at the index LEN of the framed list. -/
theorem transmissionFrameLayout : Obligations.TransmissionFrameLayout := by
  intro s
  refine ⟨?_, fun _ hi => asmFrame_start hi, fun j hj k hk => ?_, fun k hk => ?_, fun i hlo hhi => ?_⟩
  · rw [asmFrame_length, seqLen]
    omega
  · rw [asmFrame_body hj.le hk, charAt, if_pos hj]
  · rw [asmFrame_body le_rfl hk, charAt_len]
    rfl
  · exact asmFrame_stop (by unfold seqLen at hlo; omega) hhi

/-- Settles O12: SEQ_BIT and the frame at the same index, by the three ranges. -/
theorem seqBitReadsTheTransmissionFrame : Obligations.SeqBitReadsTheTransmissionFrame :=
  fun _ _ i hl hi => ⟨_, asmFrame_getElem? hi, seqBit_next i hl, rfl⟩

/-- Settles O14: each reads LEN and CHAR_AT alone. -/
theorem sequenceDependsOnLiveCellsOnly : Obligations.SequenceDependsOnLiveCellsOnly := fun _ _ hl hc =>
  ⟨by simp only [seqLen, hl], asmFrame_congr_live hl hc, fun _ => seqBit_congr_live hl hc⟩

/-! ### The reference decoder -/

/-- One group of nine symbols that are a Character Frame decodes to its code (40_encoder.md R113). -/
theorem decodeBody_encFrame_append (n : Nat) (c : Byte) (bits : List Symbol) :
    decodeBody (n + 1) (encFrame c ++ bits) = (decodeBody n bits).map (c :: ·) := by
  have hdata : (encFrame c ++ bits).take 8 = encData c := rfl
  have hparity : ((encFrame c ++ bits).drop 8).head? = some (encPar c) := rfl
  have hrest : (encFrame c ++ bits).drop 9 = bits := rfl
  simp only [decodeBody, hdata, byteOfSymbols_encData, hparity, if_true, hrest]

/-- The reference decoder inverts the framing of every list of characters (40_encoder.md R105, R113). -/
theorem decodeBody_flatMap_encFrame (cs : List Byte) : decodeBody cs.length (cs.flatMap encFrame) = some cs := by
  induction cs with
  | nil => rfl
  | cons c cs ih => rw [List.flatMap_cons, List.length_cons, decodeBody_encFrame_append, ih, Option.map_some]

/-- Without the markers the Transmission Frame is its body (40_encoder.md R106). -/
theorem asmFrame_strip (s : State) : ((asmFrame s).drop 12).take (asmBody s).length = asmBody s := by
  rw [asmFrame, List.append_assoc, List.drop_left' startMarkerSymbols_length, List.take_left]

/-- Settles O13: the length gives the body, which `decodeBody_flatMap_encFrame` decodes. -/
theorem referenceDecoderRecoversTheMessage : Obligations.ReferenceDecoderRecoversTheMessage := by
  intro s
  have hbody : (asmFrame s).length - 24 = (asmBody s).length := by
    rw [asmFrame_length, asmBody_length, seqLen, Nat.add_sub_cancel_left]
  have hchars : (asmBody s).length / 9 = (asmChars s).length := by
    rw [asmBody_length, asmChars_length, Nat.mul_div_cancel_left _ (by decide)]
  rw [referenceDecode, hbody, hchars, asmFrame_strip]
  exact decodeBody_flatMap_encFrame (asmChars s)

end Sys2Proof.Machine
end

section
/-! PROOF. The parameters and the sequence as arguments (00_scope.md R5 to R7, 40_encoder.md R114). -/

namespace Sys2Proof.Machine

/-- Settles O29: EMIT by its pseudocode (42_scheduler.md R141), the machine by `execGen_reference`, `step_eq_stepAt`. -/
theorem parametersAndSequenceEnter : Obligations.ParametersAndSequenceEnter :=
  ⟨fun _ _ _ _ => rfl, fun i s => (execGen_reference i s).symm, step_eq_stepAt, rfl, rfl, rfl⟩

end Sys2Proof.Machine
end

section
/-! PROOF. The host commands (41_commands.md R121 to R125): the next state that each one answers, and the cycle as its
decoded command followed by its decoded operation (41_commands.md R126, 42_scheduler.md R154). -/

namespace Sys2Proof.Machine

variable {p : Params} {s : State} {i : PortIn}

/-! ### The commands -/

/-- PUSH into a buffer that is not full, outside a session (41_commands.md R121). -/
theorem pushAt_append (d : CharCode) (hr : s.state ≠ .running) (hl : s.len < p.msgMax) :
    pushAt p d s =
      .next ({ s with msg := Memory.store s.msg s.len (encCode d.bits), len := s.len + 1 }.respond .ok) := by
  have hwrite : memWrite p s.len 1 (encCode d.bits) s =
      .next { s with msg := Memory.store s.msg s.len (encCode d.bits) } := memWrite_eq_next.2 ⟨rfl, hl, rfl⟩
  rw [pushAt, if_neg hr, if_neg hl.ne, hwrite]
  rfl

/-- R121's order: Busy, then Overflow, then the store in cell LEN, seen through the laws of the message buffer. -/
theorem pushAt_result (d : CharCode) (hl : s.len ≤ p.msgMax) :
    if s.state = .running then pushAt p d s = .next (s.respond .busy)
    else if s.len = p.msgMax then pushAt p d s = .next (s.respond .overflow)
    else ∃ t, pushAt p d s = .next t ∧ t = { s with msg := t.msg, len := s.len + 1 }.respond .ok ∧
      Memory.stored t.msg s.len = some (encCode d.bits) ∧
      ∀ j, j ≠ s.len → Memory.stored t.msg j = Memory.stored s.msg j := by
  split
  case isTrue hr => exact if_pos hr
  case isFalse hr =>
    split
    case isTrue hfull => exact (if_neg hr).trans (if_pos hfull)
    case isFalse hfull =>
      exact ⟨_, pushAt_append d hr (Nat.lt_of_le_of_ne hl hfull), rfl, stored_store_same _ _ _,
        fun j hj => stored_store_other _ _ hj⟩

/-- Settles O16: `pushAt_result`, which `exec` and `execGen` instantiate. -/
theorem pushResult : Obligations.PushResult :=
  ⟨fun d _ hl => pushAt_result d hl, fun _ _ d _ hl => pushAt_result d hl⟩

/-- Settles O17: the two cases of CLEAR. -/
theorem clearResult : Obligations.ClearResult := by
  intro d s
  rcases clearOp_cases s with ⟨hr, hc⟩ | ⟨hr, hc⟩
  · rw [if_pos hr]
    exact hc
  · rw [if_neg hr]
    exact hc

/-- Settles O18: the three cases of START. -/
theorem startResult : Obligations.StartResult := by
  intro d s
  rcases startOp_cases s with ⟨hr, hc⟩ | ⟨hr, hl, hc⟩ | ⟨hr, hl, hc⟩
  · rw [if_pos hr]
    exact hc
  · rw [if_neg hr, if_pos hl]
    exact hc
  · rw [if_neg hr, if_neg hl]
    exact hc

/-- Settles O19: CANCEL has one case. -/
theorem cancelResult : Obligations.CancelResult := fun _ s => cancelOp_eq s

/-! ### The cycle -/

/-- A step without reset: the fetched command, the fetched operation, the actuator's report (log entry 14). -/
theorem step_eq_andThen (hrst : s.ports.rst = false) :
    step s = andThen (commandPart exec (fetchCommand Config.reference s.ports) s.beginCycle) fun t =>
      andThen (exec (fetchOp (seqLen s) s s.ports) t) fun u => .next (u.noteActErr s.ports.actErr) := by
  simp [step, cycle, hrst]

/-- Settles O30: the fetched instructions of `step_eq_andThen` are the decoded words. -/
theorem stepRunsTheDecodedInstructions : Obligations.StepRunsTheDecodedInstructions := by
  intro s c o hrst hc ho
  cases hc
  cases ho
  rw [step_eq_andThen hrst, fetchCommand]
  cases s.ports.cmdValid <;> rfl

/-- The cycle's operation is one of the scheduler's (30_encoding.md R77). -/
theorem format_fetchOp (L : Nat) (s : State) (i : PortIn) : (fetchOp L s i).format = .sched :=
  format_of_decode (c := .sched (dispatchVector L s i.waitFault)) rfl

/-- A scheduler operation neither reads nor writes the response ports, also where EMIT stops (42_scheduler.md R154). -/
theorem exec_sched_respond {o : Instr} (ho : o.format = .sched) (s : State) (c : RspCode) :
    exec o (s.respond c) = andThen (exec o s) fun t => .next (t.respond c) := by
  cases o with
  | hold | finComplete | finCancel | finInterrupt | wait => rfl
  | emit f =>
    have hbit := seqBit_congr Config.reference (respond_len s c) (respond_msg s c) s.cursor
    simp only [exec, execEmit, respond_cursor, hbit]
    cases seqBit Config.reference s s.cursor <;> rfl
  | push | clear | start | cancel | op0 | op5 | op6 | op7 | charFrame | startMarker | stopMarker | padFrame => cases ho

/-- A reserved operation code answers IllegalCmd in every state (41_commands.md R125). -/
theorem exec_reserved {op : BitVec 3} (h : op = 0b000#3 ∨ op = 0b101#3 ∨ op = 0b110#3 ∨ op = 0b111#3)
    (d : CharCode) (s : State) : exec (decodeOp op d) s = .next (s.respond .illegalCmd) := by
  rcases h with rfl | rfl | rfl | rfl <;> exact reservedOp_eq s

/-- A reserved code on the port leaves its response to the operation of the cycle (41_commands.md R125, R126). -/
theorem step_reserved (hrst : i.rst = false) (hv : i.cmdValid = true)
    (ho : i.cmdOp = 0b000#3 ∨ i.cmdOp = 0b101#3 ∨ i.cmdOp = 0b110#3 ∨ i.cmdOp = 0b111#3) (s : State) :
    step (s.withPorts i) = andThen (exec (fetchOp (seqLen s) s i) (s.beginCycle.respond .illegalCmd)) fun u =>
      .next (u.noteActErr i.actErr) := by
  rw [step_eq_andThen (s := s.withPorts i) hrst, withPorts_ports, fetchCommand_eq, if_pos hv, commandPart,
    exec_reserved ho]
  rfl

/-- Without a command the operation of the cycle starts from no response (42_scheduler.md R154). -/
theorem step_noCommand (hrst : i.rst = false) (hv : i.cmdValid = false) (s : State) :
    step (s.withPorts i) = andThen (exec (fetchOp (seqLen s) s i) s.beginCycle) fun u =>
      .next (u.noteActErr i.actErr) := by
  rw [step_eq_andThen (s := s.withPorts i) hrst, withPorts_ports, fetchCommand_eq, hv]
  rfl

/-- Settles O20: `exec_reserved`; in a step the operation, the same in both cycles, passes the response on. -/
theorem reservedCodesResult : Obligations.ReservedCodesResult := by
  refine ⟨fun _ s => ⟨reservedOp_eq s, reservedOp_eq s, reservedOp_eq s, reservedOp_eq s⟩, fun s i hrst hv ho => ?_⟩
  have hop : fetchOp (seqLen s) s { i with cmdValid := false } = fetchOp (seqLen s) s i := rfl
  rw [step_reserved hrst hv ho, step_noCommand (i := { i with cmdValid := false }) hrst rfl, hop,
    exec_sched_respond (format_fetchOp _ _ _)]
  cases exec (fetchOp (seqLen s) s i) s.beginCycle <;> rfl

end Sys2Proof.Machine
end

section
/-! PROOF. The scheduler operations of a cycle (42_scheduler.md R140 to R146, R153, R154): in a session a cycle is its
operation on the state that the rest of the cycle leaves, so that each operation has its equation. -/

namespace Sys2Proof.Machine

variable {p : Params} {L : Nat} {B : Source} {s t u : State}

/-! ### The selected operation -/

/-- Outside a session the cycle selects HOLD (42_scheduler.md R140). -/
theorem fetchOp_hold {i : PortIn} (hr : s.state ≠ .running) :
    fetchOp L s i = .hold (s.slotcnt == 0) (s.cursor == L) s.cancel i.waitFault := by
  rw [fetchOp_eq, if_neg hr]

/-- Behind the last symbol the cycle selects FIN_COMPLETE, whatever CANCEL is (42_scheduler.md R140, R153). -/
theorem fetchOp_finComplete {i : PortIn} (hr : s.state = .running) (hz : s.slotcnt = 0) (he : s.cursor = L) :
    fetchOp L s i = .finComplete s.cancel i.waitFault := by
  rw [fetchOp_eq, if_pos hr, if_pos hz, if_pos he]

/-- At a boundary with a symbol remaining a pending cancellation selects FIN_CANCEL (42_scheduler.md R140). -/
theorem fetchOp_finCancel {i : PortIn} (hr : s.state = .running) (hz : s.slotcnt = 0) (he : s.cursor ≠ L)
    (hk : s.cancel = true) : fetchOp L s i = .finCancel i.waitFault := by
  rw [fetchOp_eq, if_pos hr, if_pos hz, if_neg he, if_pos hk]

/-- In a slot a wait fault selects FIN_INTERRUPT (42_scheduler.md R140). -/
theorem fetchOp_finInterrupt {i : PortIn} (hr : s.state = .running) (hz : s.slotcnt ≠ 0) (hf : i.waitFault = true) :
    fetchOp L s i = .finInterrupt (s.cursor == L) s.cancel := by
  rw [fetchOp_eq, if_pos hr, if_neg hz, if_pos hf]

/-- In a slot without a wait fault the cycle selects WAIT (42_scheduler.md R140). -/
theorem fetchOp_wait {i : PortIn} (hr : s.state = .running) (hz : s.slotcnt ≠ 0) (hf : i.waitFault = false) :
    fetchOp L s i = .wait (s.cursor == L) s.cancel := by
  rw [fetchOp_eq, if_pos hr, if_neg hz, if_neg (by simp [hf])]

/-- Settles O31: the step as `step_eq_andThen` has it, the mnemonic by the tests of `fetchOp_eq`. -/
theorem schedulerSelection : Obligations.SchedulerSelection := by
  intro s hrst
  refine ⟨fetchOp (seqLen s) s s.ports, step_eq_andThen hrst, ?_⟩
  rw [fetchOp_eq]
  by_cases hr : s.state = .running
  · rw [if_pos hr, if_neg (not_not.2 hr)]
    simp only [apply_ite Instr.mnemonic]
    rfl
  · rw [if_neg hr, if_pos hr]
    rfl

/-! ### The operations as instructions -/

/-- Settles O26. -/
theorem holdResult : Obligations.HoldResult := fun _ _ _ _ s => holdOp_eq s

/-- Settles O25: terminal entry with each of the three outcomes. -/
theorem finResults : Obligations.FinResults := fun _ _ s =>
  ⟨finOp_eq .completed s, finOp_eq .cancelled s, finOp_eq .interrupted s⟩

/-- Settles O24. -/
theorem waitResult : Obligations.WaitResult := fun _ _ s _ => waitOp_eq s

/-- Settles O23: the symbol that SEQ_BIT reads at the cursor is the Transmission Frame's. -/
theorem emitResult : Obligations.EmitResult := by
  intro f s hl hc
  obtain ⟨b, hframe, hbit, -⟩ := seqBitReadsTheTransmissionFrame Config.reference s s.cursor hl hc
  exact ⟨b, hframe, exec_emit f hbit⟩

/-! ### The cycle of a session -/

/-- A scheduler operation neither reads nor writes ACT_WARN (42_scheduler.md R154), so the report may come first. -/
theorem execGen_sched_noteActErr {o : Instr} (ho : o.format = .sched) (s : State) (b : Bool) :
    (andThen (execGen p B o s) fun u => .next (u.noteActErr b)) = execGen p B o (s.noteActErr b) := by
  cases o with
  | hold | finComplete | finCancel | finInterrupt | wait => rfl
  | emit f =>
    simp only [execGen, emitAt, noteActErr_cursor]
    cases B s.cursor <;> rfl
  | push | clear | start | cancel | op0 | op5 | op6 | op7 | charFrame | startMarker | stopMarker | padFrame => cases ho

/-- In a session the command of a cycle leaves its response and CANCEL, and the report beside it gives the state
`taken` (41_commands.md R127, 42_scheduler.md R154). -/
theorem command_running_taken (p : Params) (B : Source) (hr : s.state = .running) (hrst : s.ports.rst = false) :
    ∃ u, commandPart (execGen p B) (fetchCommand p s.ports) s.beginCycle = .next u ∧
      u.noteActErr s.ports.actErr = s.taken p := by
  obtain ⟨v, c, hu⟩ := command_running_next p B s.ports (s := s.beginCycle) hr
  refine ⟨_, hu, ?_⟩
  have hresponse : v = rspValidPort s.ports ∧ c = rspCodePort p s s.ports := by
    rcases command_response hu with ⟨hv, hnone⟩ | ⟨hv, hvalid, hcode⟩
    · have hport : rspValidPort s.ports = false := by simp [rspValidPort, hv]
      rw [rspCodePort, hport]
      exact ⟨congrArg State.rspValid hnone, congrArg State.rspCode hnone⟩
    · have hport : rspValidPort s.ports = true := by simp [rspValidPort, hv, hrst]
      rw [rspCodePort, hport]
      exact ⟨hvalid, hcode⟩
  obtain ⟨rfl, rfl⟩ := hresponse
  rfl

/-- A cycle of a session is its scheduler operation on the state `taken`. -/
theorem cycle_running_eq (hrst : s.ports.rst = false) (hr : s.state = .running) :
    cycle p (execGen p B) L s = execGen p B (fetchOp L s s.ports) (s.taken p) := by
  obtain ⟨u, hu, htaken⟩ := command_running_taken p B hr hrst
  simp only [cycle, hrst, hu, andThen_next, execGen_sched_noteActErr (format_fetchOp _ _ _), htaken, Bool.false_eq_true,
    if_false]

/-- FIN_COMPLETE ends the session at the boundary behind the last symbol (42_scheduler.md R143). -/
theorem cycle_finComplete (hrst : s.ports.rst = false) (hr : s.state = .running) (hz : s.slotcnt = 0)
    (he : s.cursor = L) : cycle p (execGen p B) L s = .next ((s.taken p).finish .completed) := by
  rw [cycle_running_eq hrst hr, fetchOp_finComplete hr hz he]
  rfl

/-- FIN_CANCEL ends the session at a boundary with a symbol remaining (42_scheduler.md R144). -/
theorem cycle_finCancel (hrst : s.ports.rst = false) (hr : s.state = .running) (hz : s.slotcnt = 0)
    (he : s.cursor ≠ L) (hk : s.cancel = true) :
    cycle p (execGen p B) L s = .next ((s.taken p).finish .cancelled) := by
  rw [cycle_running_eq hrst hr, fetchOp_finCancel hr hz he hk]
  rfl

/-- EMIT sends the symbol at the cursor and begins its slot (42_scheduler.md R141). -/
theorem cycle_emit (hrst : s.ports.rst = false) (hr : s.state = .running) (hz : s.slotcnt = 0)
    (he : s.cursor ≠ L) (hk : s.cancel = false) {b : Symbol} (hb : B s.cursor = .next b) :
    cycle p (execGen p B) L s = .next ((s.taken p).sendSymbol p b) := by
  rw [cycle_running_eq hrst hr, fetchOp_emit hr hz he hk]
  exact emitAt_eq_next.2 ⟨b, hb, rfl⟩

/-- FIN_INTERRUPT ends the session in a slot (42_scheduler.md R145). -/
theorem cycle_finInterrupt (hrst : s.ports.rst = false) (hr : s.state = .running) (hz : s.slotcnt ≠ 0)
    (hf : s.ports.waitFault = true) :
    cycle p (execGen p B) L s = .next ((s.taken p).finish .interrupted) := by
  rw [cycle_running_eq hrst hr, fetchOp_finInterrupt hr hz hf]
  rfl

/-- WAIT lets one cycle of the slot pass (42_scheduler.md R142). -/
theorem cycle_wait (hrst : s.ports.rst = false) (hr : s.state = .running) (hz : s.slotcnt ≠ 0)
    (hf : s.ports.waitFault = false) :
    cycle p (execGen p B) L s = .next { (s.taken p).noEvent with slotcnt := s.slotcnt - 1 } := by
  rw [cycle_running_eq hrst hr, fetchOp_wait hr hz hf]
  rfl

/-- Settles O45: the cycle is FIN_COMPLETE. -/
theorem noCancellationAfterTheLastSymbol : Obligations.NoCancellationAfterTheLastSymbol := by
  intro p L B s t hrst hr hz he h
  cases (cycle_finComplete hrst hr hz he).symm.trans h
  exact ⟨rfl, rfl⟩

/-- Settles O44: FIN_COMPLETE, FIN_INTERRUPT and WAIT, each of which the other value of CANCEL selects as well. -/
theorem cancelNotLookedAtElsewhere : Obligations.CancelNotLookedAtElsewhere := by
  intro p s t b hrst hr hwhere h
  by_cases hz : s.slotcnt = 0
  · have he : s.cursor = seqLen s := hwhere.resolve_left (not_not.2 hz)
    cases (cycle_finComplete hrst hr hz he).symm.trans h
    exact cycle_finComplete (s := { s with cancel := b }) hrst hr hz he
  · cases hf : s.ports.waitFault with
    | true =>
      cases (cycle_finInterrupt hrst hr hz hf).symm.trans h
      exact cycle_finInterrupt (s := { s with cancel := b }) hrst hr hz hf
    | false =>
      cases (cycle_wait hrst hr hz hf).symm.trans h
      exact cycle_wait (s := { s with cancel := b }) hrst hr hz hf

/-- Settles O36: STATE in each case of the cycle. -/
theorem stateNext : Obligations.StateNext := by
  intro p s t h
  cases cycleCase_of_stepAt h with
  | reset hrst => simp [hrst]
  | complete hrst hr hz he => simp [hrst, hr, hz, he]
  | cancel hrst hr hz he hk => simp [hrst, hr, hz, he, hk]
  | emit hrst hr hz he hk => simp [hrst, hr, hz, he, hk]
  | interrupt hrst hr hz hf => simp [hrst, hr, hz, hf]
  | wait hrst hr hz hf => simp [hrst, hr, hz, hf]
  | push hrst hr hv ho => simp [hrst, hr, presentsStart_of_ne, ho]
  | clear hrst hr hv ho => simp [hrst, hr, presentsStart_of_ne, ho]
  | start hrst hr hs ho hl => simp [hrst, hr, hs, hl]
  | hold hrst hr hs => rcases hs with hs | hs <;> simp [hrst, hr, hs]

/-! ### The first operation of a session -/

/-- The cycle of an accepted START leaves a session at its first boundary, and no event (41_commands.md R123), over
every sequence. -/
theorem cycle_start (hrst : s.ports.rst = false) (hstart : s.startsSession) (h : cycle p (execGen p B) L s = .next t) :
    t.state = .running ∧ t.cursor = 0 ∧ t.slotcnt = 0 ∧ t.cancel = false ∧ eventOf t = [] := by
  obtain ⟨hs, hi, hl⟩ := hstart
  have hop : s.ports.cmdOp = 0b011#3 := by
    by_contra ho
    simp [presentsStart_of_ne ho] at hs
  rcases cycle_idle_cases hrst hi h with ⟨-, ho, -⟩ | ⟨-, ho, -⟩ | ⟨-, -, -, rfl⟩ | ⟨hno, -⟩
  · simp [hop] at ho
  · simp [hop] at ho
  · exact ⟨rfl, rfl, rfl, rfl, rfl⟩
  · exact absurd (hno hs) hl

/-- The cycle after an accepted START sends the first symbol of a sequence that has one (42_scheduler.md R152). -/
theorem cycle_start_emit {B' : Source} (hL : L ≠ 0) (hrst : s.ports.rst = false) (hstart : s.startsSession)
    {L' : Nat} (ht : cycle p (execGen p B') L' s = .next t) (htrst : t.ports.rst = false) {b : Symbol}
    (hb : B 0 = .next b) (hu : cycle p (execGen p B) L t = .next u) :
    eventOf t = [] ∧ eventOf u = [b] ∧ u.state = .running ∧ u.cursor = 1 := by
  obtain ⟨hr, hc, hz, hk, hevent⟩ := cycle_start hrst hstart ht
  cases (cycle_emit htrst hr hz (hc.trans_ne hL.symm) hk (hc ▸ hb)).symm.trans hu
  exact ⟨hevent, rfl, hr, congrArg (· + 1) hc⟩

/-- Settles O55: the first symbol of the block's sequence is the start marker's, read without the message. -/
theorem firstOperationSendsTheFirstSymbol : Obligations.FirstOperationSendsTheFirstSymbol := by
  refine ⟨fun p s t u hi hrst hs hl ht htrst hu => ?_, fun p L B s t u hL hi hrst hs hl ht htrst hu => ?_⟩
  · exact cycle_start_emit (by simp [seqLen]) hrst ⟨hs, hi, hl⟩ ht htrst rfl hu
  · obtain ⟨-, hevent, -, hc⟩ :=
      cycle_start_emit (Nat.one_le_iff_ne_zero.1 hL) hrst ⟨hs, hi, hl⟩ ht htrst rfl hu
    exact ⟨hevent, hc⟩

end Sys2Proof.Machine
end

section
/-! PROOF. The union of the writes of a cycle (42_scheduler.md R154, 00_scope.md R10): the command and the scheduler
operation write different registers, and neither reads what the other writes. -/

namespace Sys2Proof.Machine

variable {p : Params} {B : Source} {i : PortIn} {s u o : State}

/-- The registers that no scheduler operation writes are in `o` as in `s` (42_scheduler.md R154). -/
structure KeptByOperation (s o : State) : Prop where
  cancel_eq : o.cancel = s.cancel
  len_eq : o.len = s.len
  msg_eq : o.msg = s.msg
  actWarn_eq : o.actWarn = s.actWarn

/-- No command writes ACT or ACT_STB, or takes an input (42_scheduler.md R154). -/
theorem command_keeps (h : commandPart (execGen p B) (fetchCommand p i) s = .next u) :
    u.act = s.act ∧ u.actStb = s.actStb ∧ u.inputs = s.inputs := by
  rcases command_cases h with ⟨-, rfl⟩ | ⟨-, -, hpush⟩ | ⟨-, -, hclear⟩ | ⟨-, -, hstart⟩ | ⟨-, -, rfl⟩ |
    ⟨-, -, -, -, -, rfl⟩
  · exact ⟨rfl, rfl, rfl⟩
  · rcases pushAt_cases hpush with ⟨-, rfl⟩ | ⟨-, -, rfl⟩ | ⟨-, -, rfl⟩ <;> exact ⟨rfl, rfl, rfl⟩
  · rcases clearOp_cases s with ⟨-, hc⟩ | ⟨-, hc⟩ <;> cases hc.symm.trans hclear <;> exact ⟨rfl, rfl, rfl⟩
  · rcases startOp_cases s with ⟨-, hc⟩ | ⟨-, -, hc⟩ | ⟨-, -, hc⟩ <;> cases hc.symm.trans hstart <;>
      exact ⟨rfl, rfl, rfl⟩
  · exact ⟨rfl, rfl, rfl⟩
  · exact ⟨rfl, rfl, rfl⟩

/-- A scheduler operation leaves alone what a command of a session writes, CANCEL and the response, and reads none of
it (42_scheduler.md R154). -/
theorem execGen_sched_command {op : Instr} (hop : op.format = .sched) (h : execGen p B op s = .next o)
    (k v : Bool) (c : RspCode) :
    KeptByOperation s o ∧ execGen p B op { s with cancel := k, rspValid := v, rspCode := c } =
      .next { o with cancel := k, rspValid := v, rspCode := c, inputs := s.inputs } := by
  cases op with
  | hold | finComplete | finCancel | finInterrupt | wait => cases h; exact ⟨⟨rfl, rfl, rfl, rfl⟩, rfl⟩
  | emit f =>
    obtain ⟨b, hb, rfl⟩ := emitAt_eq_next.1 h
    exact ⟨⟨rfl, rfl, rfl, rfl⟩, emitAt_eq_next.2 ⟨b, hb, rfl⟩⟩
  | push | clear | start | cancel | op0 | op5 | op6 | op7 | charFrame | startMarker | stopMarker | padFrame => cases hop

/-- In a session the union is the operation's state with CANCEL and the response as the command gives them. -/
theorem mergeWrites_session (h : KeptByOperation s o) (k v : Bool) (c : RspCode) :
    mergeWrites s { s with cancel := k, rspValid := v, rspCode := c } o =
      { o with cancel := k, rspValid := v, rspCode := c, inputs := s.inputs } := by
  simp [mergeWrites, h.cancel_eq, h.len_eq, h.msg_eq, h.actWarn_eq]

/-- Outside a session the union is the command's state without an event. -/
theorem mergeWrites_noEvent (hstb : u.actStb = s.actStb) (hinputs : u.inputs = s.inputs) :
    mergeWrites s u s.noEvent = u.noEvent := by
  simp [mergeWrites, State.noEvent, hstb, hinputs]

/-- Settles O32: in a session by `execGen_sched_command` for the command's CANCEL and response; outside one the
operation is HOLD, which writes ACT_STB alone. -/
theorem stepIsTheUnionOfPreStateWrites : Obligations.StepIsTheUnionOfPreStateWrites := by
  intro p s c o hrst hc ho
  obtain ⟨hact, hstb, hinputs⟩ := command_keeps hc
  by_cases hr : s.state = .running
  · obtain ⟨v, r, rfl⟩ := command_running_cases (s := s.beginCycle) hr hc
    obtain ⟨hkept, hop⟩ := execGen_sched_command (format_fetchOp _ _ _) ho
      (s.beginCycle.cancel || s.ports.presentsCancel) v r
    rw [mergeWrites_session hkept]
    exact ⟨(cycle_eq_next hrst).2 ⟨_, _, hc, hop, rfl⟩, .inl rfl, .inl rfl, .inl rfl, hkept.cancel_eq, hkept.len_eq,
      hkept.msg_eq, hact, hstb, hkept.actWarn_eq⟩
  · rw [fetchOp_hold hr] at ho
    cases ho
    have hop : execGen p (seqBit p s) (fetchOp (seqLen s) s s.ports) c = .next c.noEvent := by
      rw [fetchOp_hold hr]
      rfl
    rw [mergeWrites_noEvent hstb hinputs]
    exact ⟨(cycle_eq_next hrst).2 ⟨_, _, hc, hop, rfl⟩, .inr rfl, .inr rfl, .inr rfl, rfl, rfl, rfl, hact, hstb, rfl⟩

end Sys2Proof.Machine
end

section
/-! PROOF. The runs of a session (42_scheduler.md R149, R151, R156): one slot, a number of slots, and the whole session,
over an arbitrary sequence (40_encoder.md R114); the block's own sequence is the Transmission Frame. -/

namespace Sys2Proof.Machine

variable {p : Params} {L : Nat} {B : Nat → Symbol} {f : State → Result} {s t u : State}

/-! ### A session and its sequence -/

/-- `t` stands in the session of `s`, `n` cycles later: the session runs, the message is the same, the inputs have moved
on. -/
structure Continues (s : State) (n : Nat) (t : State) : Prop where
  state_eq : t.state = .running
  len_eq : t.len = s.len
  msg_eq : t.msg = s.msg
  inputs_eq : t.inputs = s.inputs.drop n

theorem Continues.refl (h : s.state = .running) : Continues s 0 s := ⟨h, rfl, rfl, rfl⟩

theorem Continues.trans {m n : Nat} (h : Continues s m t) (h' : Continues t n u) : Continues s (m + n) u where
  state_eq := h'.state_eq
  len_eq := h'.len_eq.trans h.len_eq
  msg_eq := h'.msg_eq.trans h.msg_eq
  inputs_eq := by rw [h'.inputs_eq, h.inputs_eq, List.drop_drop]

theorem Continues.portsAt {n : Nat} (h : Continues s n t) (j : Nat) : t.portsAt j = s.portsAt (n + j) :=
  portsAt_drop h.inputs_eq j

theorem Continues.ports {n : Nat} (h : Continues s n t) : t.ports = s.portsAt n :=
  (portsAt_zero t).symm.trans (h.portsAt 0)

/-- While the message is that of `s`, the step `f` is the generic scheduler's on the sequence `(L, B)`
(40_encoder.md R114). -/
def Sends (f : State → Result) (p : Params) (L : Nat) (B : Nat → Symbol) (s : State) : Prop :=
  ∀ t, t.len = s.len → t.msg = s.msg → f t = stepGeneric p L B t

theorem sends_stepGeneric (p : Params) (L : Nat) (B : Nat → Symbol) (s : State) : Sends (stepGeneric p L B) p L B s :=
  fun _ _ _ => rfl

theorem Sends.self (h : Sends f p L B s) : f s = stepGeneric p L B s := h s rfl rfl

/-- The sequence stays the same through the session. -/
theorem Sends.continues {n : Nat} (h : Sends f p L B s) (hc : Continues s n t) : Sends f p L B t :=
  fun u hl hm => h u (hl.trans hc.len_eq) (hm.trans hc.msg_eq)

/-- The symbol of the Transmission Frame at an index; behind its end 0, as SEQ_BIT (log entry 9). -/
def frameSymbol (s : State) (i : Nat) : Symbol := (asmFrame s).getD i false

/-- SEQ_BIT is the Transmission Frame index by index (40_encoder.md R108). -/
theorem seqBit_eq_frameSymbol (hl : s.len ≤ p.msgMax) (i : Nat) : seqBit p s i = .next (frameSymbol s i) := by
  rw [seqBit_next i hl, frameSymbol, List.getD_eq_getElem?_getD]
  by_cases hi : i < seqLen s
  · rw [asmFrame_getElem? hi]
    rfl
  · have hend : (asmFrame s)[i]? = none := List.getElem?_eq_none ((asmFrame_length s).trans_le (Nat.le_of_not_lt hi))
    unfold seqLen at hi
    rw [hend, if_neg (by omega), if_neg (by omega)]
    rfl

/-- The symbols of the sequence, listed, are the Transmission Frame. -/
theorem map_frameSymbol (s : State) : (List.range (seqLen s)).map (frameSymbol s) = asmFrame s := by
  rw [← asmFrame_length]
  refine List.ext_getElem (by simp) fun i hi hi' => ?_
  simp [frameSymbol, hi']

/-- The block's step is the generic scheduler's on the Transmission Frame (40_encoder.md R106, R114). -/
theorem sends_stepAt (hl : s.len ≤ p.msgMax) : Sends (stepAt p) p (seqLen s) (frameSymbol s) s := by
  intro t htl htm
  have hB : seqBit p t = fun i => .next (frameSymbol s i) :=
    funext fun i => (seqBit_congr p htl htm i).trans (seqBit_eq_frameSymbol hl i)
  simp only [stepAt, stepGeneric, hB, seqLen, htl]

/-! ### One more cycle of a run -/

/-- The trace of one more cycle. -/
theorem traceFor_succ {k : Nat} (h : runFor f k s = .next t) (h2 : f t = .next u) :
    traceFor f (k + 1) s = traceFor f k s ++ eventOf u := by
  rw [traceFor_add h, traceFor_one h2]

/-! ### One slot -/

/-- `t` is the state `k` cycles into the slot that begins at `s` with the symbol `b` (42_scheduler.md R149). -/
structure InSlot (p : Params) (b : Symbol) (s : State) (k : Nat) (t : State) : Prop extends Continues s k t where
  slotcnt_eq : t.slotcnt = p.slotTicks - k
  cursor_eq : t.cursor = s.cursor + 1
  act_eq : t.act = b
  actStb_iff : t.actStb = true ↔ k = 1
  cancel_iff : t.cancel = true ↔ ∃ j < k, (s.portsAt j).presentsCancel = true

/-- The cycle of the EMIT begins the slot (42_scheduler.md R141). -/
theorem inSlot_sendSymbol (hr : s.state = .running) (hk : s.cancel = false) (b : Symbol) :
    InSlot p b s 1 ((s.taken p).sendSymbol p b) where
  state_eq := hr
  len_eq := rfl
  msg_eq := rfl
  inputs_eq := List.drop_one.symm
  slotcnt_eq := rfl
  cursor_eq := rfl
  act_eq := rfl
  actStb_iff := by simp
  cancel_iff := by simp [hk, portsAt_zero]

/-- A WAIT is one more cycle of the slot (42_scheduler.md R142). -/
theorem InSlot.wait {b : Symbol} {k : Nat} (h : InSlot p b s k t) (h1 : 1 ≤ k) :
    InSlot p b s (k + 1) { (t.taken p).noEvent with slotcnt := t.slotcnt - 1 } where
  state_eq := h.state_eq
  len_eq := h.len_eq
  msg_eq := h.msg_eq
  inputs_eq := by simp [h.inputs_eq]
  slotcnt_eq := by simp only [h.slotcnt_eq]; omega
  cursor_eq := h.cursor_eq
  act_eq := h.act_eq
  actStb_iff := by simp; omega
  cancel_iff := by
    rw [Nat.exists_lt_succ_right]
    simp [h.cancel_iff, h.ports]

/-- From a boundary with a symbol remaining and no cancellation the slot takes its cycles, with the one event of the
symbol, whatever commands and reports come (42_scheduler.md R149). -/
theorem runFor_slot (hf : Sends f p L B s) (hr : s.state = .running) (hz : s.slotcnt = 0) (he : s.cursor ≠ L)
    (hk : s.cancel = false)
    (hports : ∀ j < p.slotTicks, (s.portsAt j).rst = false ∧ (0 < j → (s.portsAt j).waitFault = false))
    {k : Nat} (h1 : 1 ≤ k) (hle : k ≤ p.slotTicks) :
    ∃ t, runFor f k s = .next t ∧ InSlot p (B s.cursor) s k t ∧ traceFor f k s = [B s.cursor] := by
  induction k, h1 using Nat.le_induction with
  | base =>
    obtain ⟨hrst, -⟩ := hports 0 hle
    have hemit : f s = .next ((s.taken p).sendSymbol p (B s.cursor)) :=
      hf.self.trans (cycle_emit (portsAt_zero s ▸ hrst) hr hz he hk rfl)
    exact ⟨_, runFor_first hemit 0, inSlot_sendSymbol hr hk _, traceFor_one hemit⟩
  | succ k h1 ih =>
    obtain ⟨t, hrun, hslot, htrace⟩ := ih (Nat.le_of_succ_le hle)
    obtain ⟨hrst, hfault⟩ := hports k hle
    have hrest : t.slotcnt ≠ 0 := by rw [hslot.slotcnt_eq]; omega
    have hwait : f t = .next { (t.taken p).noEvent with slotcnt := t.slotcnt - 1 } :=
      (hf.continues hslot.toContinues).self.trans
        (cycle_wait (hslot.ports ▸ hrst) hslot.state_eq hrest (hslot.ports ▸ hfault h1))
    exact ⟨_, runFor_succ_next hrun hwait, hslot.wait h1, by rw [traceFor_succ hrun hwait, htrace]; rfl⟩

/-- Settles O56: `runFor_slot` over the Transmission Frame. -/
theorem slotIsExactlySlotTicksCycles : Obligations.SlotIsExactlySlotTicksCycles := by
  intro p hp s hinv hr hz hc hk hports k h1 hle
  obtain ⟨t, hrun, hslot, -⟩ := runFor_slot (sends_stepAt hinv.len_le) hr hz hc.ne hk hports h1 hle
  exact ⟨t, hrun, hslot.state_eq, hslot.slotcnt_eq, hslot.cursor_eq,
    hslot.act_eq ▸ seqBit_eq_frameSymbol hinv.len_le s.cursor, hslot.actStb_iff⟩

/-! ### A number of slots -/

/-- `t` is a boundary of the session of `s`, `n` slots later, with no cancellation pending. -/
structure AtBoundary (p : Params) (s : State) (n : Nat) (t : State) : Prop extends Continues s (n * p.slotTicks) t where
  slotcnt_eq : t.slotcnt = 0
  cursor_eq : t.cursor = s.cursor + n
  cancel_eq : t.cancel = false

theorem atBoundary_self (hr : s.state = .running) (hz : s.slotcnt = 0) (hk : s.cancel = false) :
    AtBoundary p s 0 s where
  toContinues := (Nat.zero_mul p.slotTicks).symm ▸ Continues.refl hr
  slotcnt_eq := hz
  cursor_eq := rfl
  cancel_eq := hk

/-- A slot in which no CANCEL comes leads from boundary to boundary. -/
theorem AtBoundary.next {b : Symbol} {n : Nat} (ht : AtBoundary p s n t) (h : InSlot p b t p.slotTicks u)
    (hcancel : ∀ j < p.slotTicks, (s.portsAt (n * p.slotTicks + j)).presentsCancel = false) :
    AtBoundary p s (n + 1) u where
  toContinues := Nat.succ_mul n p.slotTicks ▸ ht.toContinues.trans h.toContinues
  slotcnt_eq := h.slotcnt_eq.trans (Nat.sub_self _)
  cursor_eq := by rw [h.cursor_eq, ht.cursor_eq, Nat.add_assoc]
  cancel_eq := by
    rw [← Bool.not_eq_true, h.cancel_iff]
    rintro ⟨j, hj, hpresent⟩
    simp [ht.portsAt, hcancel j hj] at hpresent

/-- The cycles of the slot after `n` slots. -/
theorem runFor_slot_after {n : Nat} (hf : Sends f p L B s) (hrun : runFor f (n * p.slotTicks) s = .next t)
    (ht : AtBoundary p s n t) (he : s.cursor + n ≠ L)
    (hports : ∀ j < p.slotTicks,
      (s.portsAt (n * p.slotTicks + j)).rst = false ∧ (s.portsAt (n * p.slotTicks + j)).waitFault = false)
    {k : Nat} (h1 : 1 ≤ k) (hle : k ≤ p.slotTicks) :
    ∃ u, runFor f (n * p.slotTicks + k) s = .next u ∧ InSlot p (B (s.cursor + n)) t k u ∧
      traceFor f (n * p.slotTicks + k) s = traceFor f (n * p.slotTicks) s ++ [B (s.cursor + n)] := by
  have hslotports (j : Nat) (hj : j < p.slotTicks) :
      (t.portsAt j).rst = false ∧ (0 < j → (t.portsAt j).waitFault = false) := by
    rw [ht.portsAt]
    exact (hports j hj).imp_right fun h _ => h
  obtain ⟨u, hslotrun, hslot, htrace⟩ := runFor_slot (hf.continues ht.toContinues) ht.state_eq ht.slotcnt_eq
    (ht.cursor_eq.trans_ne he) ht.cancel_eq hslotports h1 hle
  rw [ht.cursor_eq] at hslot htrace
  exact ⟨u, (runFor_add hrun).trans hslotrun, hslot, by rw [traceFor_add hrun, htrace]⟩

/-- In the next `n` cycles nothing comes that ends a session: no reset, no wait fault, no CANCEL. -/
def Quiet (s : State) (n : Nat) : Prop :=
  ∀ j < n, (s.portsAt j).rst = false ∧ (s.portsAt j).waitFault = false ∧ (s.portsAt j).presentsCancel = false

theorem Quiet.mono {m n : Nat} (h : Quiet s n) (hle : m ≤ n) : Quiet s m := fun j hj => h j (hj.trans_le hle)

/-- `n` quiet slots send the next `n` symbols (42_scheduler.md R151, R156). -/
theorem runFor_slots (hp : p.Ok) (hf : Sends f p L B s) (hs : AtBoundary p s 0 s) {n : Nat} (hn : s.cursor + n ≤ L)
    (hquiet : Quiet s (n * p.slotTicks)) :
    ∃ t, runFor f (n * p.slotTicks) s = .next t ∧ AtBoundary p s n t ∧
      traceFor f (n * p.slotTicks) s = (List.range n).map fun i => B (s.cursor + i) := by
  induction n with
  | zero => exact ⟨s, by rw [Nat.zero_mul, runFor], hs, by rw [Nat.zero_mul, traceFor, List.range_zero, List.map_nil]⟩
  | succ n ih =>
    obtain ⟨hticks, -, -⟩ := hp
    rw [Nat.succ_mul] at hquiet ⊢
    obtain ⟨t, hrun, ht, htrace⟩ := ih (Nat.le_of_succ_le hn) (hquiet.mono (Nat.le_add_right _ _))
    have hslotports (j : Nat) (hj : j < p.slotTicks) := hquiet (n * p.slotTicks + j) (Nat.add_lt_add_left hj _)
    obtain ⟨u, hslotrun, hslot, hslottrace⟩ := runFor_slot_after hf hrun ht (Nat.ne_of_lt hn)
      (fun j hj => (hslotports j hj).imp_right And.left) hticks le_rfl
    refine ⟨u, hslotrun, ht.next hslot fun j hj => (hslotports j hj).2.2, ?_⟩
    rw [hslottrace, htrace, List.range_succ, List.map_append, List.map_singleton]

/-- In every cycle of `n` quiet slots the session runs: the cycles by quotient and remainder (42_scheduler.md R156). -/
theorem running_in_slots (hp : p.Ok) (hf : Sends f p L B s) (hs : AtBoundary p s 0 s) {n : Nat} (hn : s.cursor + n ≤ L)
    (hquiet : Quiet s (n * p.slotTicks)) {k : Nat} (hk : k ≤ n * p.slotTicks) :
    ∃ u, runFor f k s = .next u ∧ u.state = .running := by
  obtain ⟨q, r, hr, rfl⟩ : ∃ q r, r < p.slotTicks ∧ k = q * p.slotTicks + r :=
    ⟨k / p.slotTicks, k % p.slotTicks, Nat.mod_lt _ hp.1, (Nat.div_add_mod' _ _).symm⟩
  have hq : q ≤ n := Nat.le_of_mul_le_mul_right ((Nat.le_add_right _ _).trans hk) hp.1
  obtain ⟨t, hrun, ht, -⟩ := runFor_slots hp hf hs (n := q) (by omega) (hquiet.mono ((Nat.le_add_right _ _).trans hk))
  rcases Nat.eq_zero_or_pos r with rfl | hr0
  · exact ⟨t, hrun, ht.state_eq⟩
  · have hq' : q + 1 ≤ n := Nat.lt_of_mul_lt_mul_right ((Nat.lt_add_of_pos_right hr0).trans_le hk)
    have hlast : q * p.slotTicks + p.slotTicks ≤ n * p.slotTicks := by
      rw [← Nat.succ_mul]
      exact Nat.mul_le_mul_right _ hq'
    obtain ⟨u, hslotrun, hslot, -⟩ := runFor_slot_after hf hrun ht (by omega)
      (fun j hj => (hquiet _ (by omega)).imp_right And.left) hr0 hr.le
    exact ⟨u, hslotrun, hslot.state_eq⟩

/-! ### Whole sessions -/

/-- When all symbols are sent the session is Completed (42_scheduler.md R151, R156). -/
theorem runFor_completed (hp : p.Ok) (hf : Sends f p L B s) (hs : AtBoundary p s 0 s) (hc : s.cursor = 0)
    (hquiet : Quiet s (L * p.slotTicks)) (hrst : (s.portsAt (L * p.slotTicks)).rst = false) :
    ∃ t, runFor f (L * p.slotTicks + 1) s = .next t ∧ t.state = .completed ∧ t.cursor = L ∧ t.act = false ∧
      traceFor f (L * p.slotTicks + 1) s = (List.range L).map B ++ [false] := by
  obtain ⟨t, hrun, ht, htrace⟩ := runFor_slots hp hf hs (by omega) hquiet
  simp only [hc, Nat.zero_add] at htrace
  have hend : t.cursor = L := by rw [ht.cursor_eq, hc, Nat.zero_add]
  have hfin : f t = .next ((t.taken p).finish .completed) :=
    (hf.continues ht.toContinues).self.trans
      (cycle_finComplete (ht.toContinues.ports ▸ hrst) ht.state_eq ht.slotcnt_eq hend)
  exact ⟨_, runFor_succ_next hrun hfin, rfl, hend, rfl, by rw [traceFor_succ hrun hfin, htrace]; rfl⟩

/-- Settles O58: `m - 1` quiet slots, the slot in which the CANCEL comes, and FIN_CANCEL at its end. -/
theorem cancelledSessionSendsAPrefix : Obligations.CancelledSessionSendsAPrefix := by
  intro p hp L B s m hr hc hz hk h1 hm hports hbefore hcancel
  obtain ⟨n, rfl⟩ : ∃ n, m = n + 1 := ⟨m - 1, (Nat.sub_add_cancel h1).symm⟩
  obtain ⟨j, hj, hj', hpresent⟩ := hcancel
  simp only [Nat.add_sub_cancel, Nat.succ_mul] at hports hbefore hj hj' ⊢
  have hf := sends_stepGeneric p L B s
  have hquiet : Quiet s (n * p.slotTicks) := fun i hi =>
    ⟨(hports i (by omega)).1, (hports i (by omega)).2, hbefore i hi⟩
  obtain ⟨t, hrun, ht, htrace⟩ := runFor_slots hp hf (atBoundary_self hr hz hk) (by omega) hquiet
  obtain ⟨u, hslotrun, hslot, hslottrace⟩ := runFor_slot_after hf hrun ht (by omega)
    (fun i hi => hports _ (by omega)) hp.1 le_rfl
  simp only [hc, Nat.zero_add] at htrace hslottrace
  have hcursor : u.cursor = n + 1 := by rw [hslot.cursor_eq, ht.cursor_eq, hc, Nat.zero_add]
  have hpending : u.cancel = true := by
    refine hslot.cancel_iff.2 ⟨j - n * p.slotTicks, by omega, ?_⟩
    rwa [ht.portsAt, Nat.add_sub_cancel' hj]
  have hlater := ht.toContinues.trans hslot.toContinues
  have hfin : stepGeneric p L B u = .next ((u.taken p).finish .cancelled) :=
    cycle_finCancel (hlater.ports ▸ (hports _ le_rfl).1) hslot.state_eq (hslot.slotcnt_eq.trans (Nat.sub_self _))
      (by omega) hpending
  refine ⟨⟨_, runFor_succ_next hslotrun hfin, rfl, hcursor, rfl⟩, ?_⟩
  rw [traceFor_succ hslotrun hfin, hslottrace, htrace, List.range_succ, List.map_append, List.map_singleton]
  rfl

/-- An accepted START leaves a session at its first boundary, with the Transmission Frame of the message before it and
no event (41_commands.md R123, 42_scheduler.md R156). -/
theorem boundary_after_start (hl : s.len ≤ p.msgMax) (hrst : s.ports.rst = false) (hstart : s.startsSession)
    (h : stepAt p s = .next t) :
    AtBoundary p t 0 t ∧ t.cursor = 0 ∧ Sends (stepAt p) p (seqLen s) (frameSymbol s) t ∧ eventOf t = [] := by
  obtain rfl := stepAt_start hrst hstart h
  exact ⟨atBoundary_self rfl rfl rfl, rfl, sends_stepAt hl, rfl⟩

/-- Settles O57: the cycle of the START, then the slots of the Transmission Frame, then FIN_COMPLETE. -/
theorem completedSessionSendsTheTransmissionFrame : Obligations.CompletedSessionSendsTheTransmissionFrame := by
  intro p hp s hinv hi hl hrst hs hlater
  rw [portsAt_zero] at hrst hs
  obtain ⟨v, hv⟩ := stepAt_next hinv.len_le
  obtain ⟨hboundary, hstart, hf, hevent⟩ :=
    boundary_after_start hinv.len_le hrst ⟨hs, hi, Nat.one_le_iff_ne_zero.1 hl⟩ hv
  have hports (j : Nat) (hj : j ≤ seqLen s * p.slotTicks) := stepAt_portsAt hv j ▸ hlater (j + 1) (by omega) (by omega)
  have hquiet : Quiet v (seqLen s * p.slotTicks) := fun j hj => hports j hj.le
  obtain ⟨t, hrun, ht, hc, hact, htrace⟩ := runFor_completed hp hf hboundary hstart hquiet (hports _ le_rfl).1
  refine ⟨fun i hi => ?_, fun k h1 hk => ?_, ⟨t, ?_, ht, hc, hact⟩, ?_⟩
  · obtain ⟨u, hurun, hu, -⟩ :=
      runFor_slots hp hf hboundary (n := i) (by omega) (hquiet.mono (Nat.mul_le_mul_right _ hi))
    refine ⟨u, ?_, hu.state_eq, by rw [hu.cursor_eq, hstart, Nat.zero_add], hu.slotcnt_eq⟩
    rw [Nat.add_comm, runFor_first hv, hurun]
  · obtain ⟨k, rfl⟩ : ∃ j, k = j + 1 := ⟨k - 1, (Nat.sub_add_cancel h1).symm⟩
    rw [runFor_first hv]
    exact running_in_slots hp hf hboundary (n := seqLen s) (by omega) hquiet (by omega)
  · rw [Nat.add_comm 2, runFor_first hv, hrun]
  · rw [show 2 + seqLen s * p.slotTicks = 1 + (seqLen s * p.slotTicks + 1) by omega, traceFor_add (runFor_first hv 0),
      traceFor_one hv, hevent, List.nil_append, htrace, map_frameSymbol]

end Sys2Proof.Machine
end

section
/-! PROOF. The actuator between the cycles (43_output_driver.md R170, R175, R176): what the registers say of a session
in progress, the write that ends it, and the report of a failed actuator. -/

namespace Sys2Proof.Machine

variable {p : Params} {s t : State}

/-! ### The invariants of the session -/

/-- Outside a session they speak of terminal states alone. -/
theorem sessionInv_outside (hr : s.state ≠ .running) (hend : s.state.terminal = true → 1 ≤ s.cursor) :
    SessionInv p s where
  level hrun := absurd hrun hr
  fresh hrun := absurd hrun hr
  ended := hend

/-- After the first symbol they speak of the level alone (43_output_driver.md R170). -/
theorem sessionInv_sent (hc : 1 ≤ s.cursor) (hlevel : seqBit p s (s.cursor - 1) = .next s.act) : SessionInv p s where
  level _ _ := hlevel
  fresh _ hzero := absurd hzero (Nat.one_le_iff_ne_zero.1 hc)
  ended _ := hc

/-- Before the first symbol the actuator is OFF and no cancellation is pending (41_commands.md R123). -/
theorem sessionInv_fresh (hr : s.state = .running) (hc : s.cursor = 0) (hact : s.act = false)
    (hk : s.cancel = false) : SessionInv p s where
  level _ hsent := absurd hc (Nat.one_le_iff_ne_zero.1 hsent)
  fresh _ _ := ⟨hact, hk⟩
  ended hend := by simp [hr, Session.terminal] at hend

/-- A pending cancellation of a session comes after its first symbol (42_scheduler.md R152). -/
theorem SessionInv.sent_of_cancel (h : SessionInv p s) (hr : s.state = .running) (hk : s.cancel = true) :
    1 ≤ s.cursor := by
  refine Nat.one_le_iff_ne_zero.2 fun hc => ?_
  obtain ⟨-, hclear⟩ := h.fresh hr hc
  simp [hk] at hclear

/-- Every step keeps them: an end needs a symbol sent, EMIT makes the level, WAIT keeps it, START begins afresh. -/
theorem SessionInv.stepAt (hs : SessionInv p s) (hinv : Inv p s) (h : stepAt p s = .next t) : SessionInv p t := by
  cases cycleCase_of_stepAt h with
  | reset hrst => exact sessionInv_outside nofun nofun
  | complete hrst hr hz he =>
    have hsent : 1 ≤ s.cursor := by rw [he, seqLen]; omega
    exact sessionInv_outside nofun fun _ => hsent
  | cancel hrst hr hz he hk => exact sessionInv_outside nofun fun _ => hs.sent_of_cancel hr hk
  | interrupt hrst hr hz => exact sessionInv_outside nofun fun _ => hinv.wait_after_emit hr hz
  | emit hrst hr hz he hk hb => exact sessionInv_sent (Nat.le_add_left 1 _) hb
  | wait hrst hr hz =>
    have hsent : 1 ≤ s.cursor := hinv.wait_after_emit hr hz
    exact sessionInv_sent hsent (hs.level hr hsent)
  | start hrst hr =>
    obtain ⟨hoff, -⟩ := hinv.off_outside hr
    exact sessionInv_fresh rfl rfl hoff rfl
  | push hrst hr | clear hrst hr | hold hrst hr => exact sessionInv_outside hr hs.ended

/-- Settles O51: `SessionInv.stepAt`. -/
theorem everyStepKeepsTheSessionInvariants : Obligations.EveryStepKeepsTheSessionInvariants :=
  fun _ _ _ _ hinv hs h => hs.stepAt hinv h

/-! ### The end of a session -/

/-- A step from a session to a terminal state is terminal entry (60_exceptions.md R197) with an outcome that has its
cause (42_scheduler.md R143, R144). -/
theorem stepAt_finish (h : stepAt p s = .next t) (hr : s.state = .running) (hend : t.state.terminal = true) :
    ∃ o, t = (s.taken p).finish o ∧ (o = .completed → s.cursor = seqLen s) ∧ (o = .cancelled → s.cancel = true) := by
  cases cycleCase_of_stepAt h with
  | complete hrst _ hz he => exact ⟨.completed, rfl, fun _ => he, nofun⟩
  | cancel hrst _ hz he hk => exact ⟨.cancelled, rfl, nofun, fun _ => hk⟩
  | interrupt => exact ⟨.interrupted, rfl, nofun, nofun⟩
  | reset => cases hend
  | emit | wait => simp [hr, Session.terminal] at hend
  | push _ hi | clear _ hi | start _ hi | hold _ hi => exact absurd hr hi

/-- Settles O46: the registers after terminal entry, beside what the cycle's command and report set. -/
theorem sessionEndPostcondition : Obligations.SessionEndPostcondition := by
  intro p s t h hr hend
  obtain ⟨o, rfl, hcompleted, hcancelled⟩ := stepAt_finish h hr hend
  refine ⟨rfl, rfl, rfl, rfl, rfl, rfl, rfl, rfl, hcompleted, fun ho => ⟨hcancelled ho, ?_⟩⟩
  rw [finish_cancel, taken_cancel, hcancelled ho, Bool.true_or]

/-! ### The report of a failed actuator -/

/-- Of three outcomes one after another, the first that stops is the answer, however they are grouped. -/
theorem andThen_assoc {α β γ φ ρ : Type} (o : Host.Outcome α φ ρ) (f : α → Host.Outcome β φ ρ)
    (g : β → Host.Outcome γ φ ρ) : andThen (andThen o f) g = andThen o fun a => andThen (f a) g := by
  cases o <;> rfl

/-- Without a report the state stays as it is (43_output_driver.md R176). -/
@[simp] theorem noteActErr_false (s : State) : s.noteActErr false = s := by
  simp [State.noteActErr]

/-- A report sets ACT_WARN, whatever it was (43_output_driver.md R176). -/
theorem noteActErr_true (s : State) : s.noteActErr true = { s with actWarn := true } := by
  simp [State.noteActErr]

/-- Nothing in a cycle reads `act_err` before the report is noted (43_output_driver.md R176): the command and the
operation are the same with it and without it. -/
theorem stepAt_report {i : PortIn} (hrst : i.rst = false) :
    stepAt p (s.withPorts i) =
      andThen (stepAt p (s.withPorts { i with actErr := false })) fun t => .next (t.noteActErr i.actErr) := by
  simp only [stepAt, cycle, withPorts_ports, hrst, Bool.false_eq_true, if_false, andThen_assoc, andThen_next,
    noteActErr_false]
  rfl

/-- Settles O43: `stepAt_report` for a report that comes. -/
theorem actErrChangesOnlyActWarn : Obligations.ActErrChangesOnlyActWarn := by
  intro p s i hrst
  have hreport := stepAt_report (p := p) (s := s) (i := { i with actErr := true }) hrst
  simpa only [noteActErr_true] using hreport

end Sys2Proof.Machine
end

section
/-! PROOF. The conditions of 60_exceptions.md R185: each has its cause (R186 to R192) and its record, and none stops the
block (R193). -/

namespace Sys2Proof.Machine

variable {p : Params} {i : PortIn} {s t : State}

/-! ### No condition stops the block -/

/-- A run of any length answers, and ends in the invariants: they give the next cycle its answer (`stepAt_next`). -/
theorem runFor_answers (hinv : Inv p s) (n : Nat) : ∃ t, runFor (stepAt p) n s = .next t ∧ Inv p t := by
  induction n with
  | zero => exact ⟨s, rfl, hinv⟩
  | succ n ih =>
    obtain ⟨t, hrun, htinv⟩ := ih
    obtain ⟨u, hu⟩ := stepAt_next htinv.len_le
    exact ⟨u, runFor_succ_next hrun hu, htinv.stepAt hu⟩

/-- Settles O52: `runFor_answers`. -/
theorem noConditionStopsTheBlock : Obligations.NoConditionStopsTheBlock := fun _ _ _ hinv n => runFor_answers hinv n

/-! ### The causes of the responses -/

/-- InvalidInput is START's answer to an empty message (60_exceptions.md R186). -/
theorem commandResponse_invalidInput {op : BitVec 3} :
    commandResponse p op s = .invalidInput ↔ op = 0b011#3 ∧ s.state ≠ .running ∧ s.len = 0 := by
  simp only [commandResponse]
  split_ifs <;> simp_all

/-- Busy is the answer of PUSH, CLEAR and START in a session (60_exceptions.md R187). -/
theorem commandResponse_busy {op : BitVec 3} :
    commandResponse p op s = .busy ↔ s.state = .running ∧ (op = 0b001#3 ∨ op = 0b010#3 ∨ op = 0b011#3) := by
  simp only [commandResponse]
  split_ifs <;> simp_all

/-- Overflow is PUSH's answer to a full message (60_exceptions.md R188). -/
theorem commandResponse_overflow {op : BitVec 3} :
    commandResponse p op s = .overflow ↔ op = 0b001#3 ∧ s.state ≠ .running ∧ s.len = p.msgMax := by
  simp only [commandResponse]
  split_ifs <;> simp_all

/-- IllegalCmd is the answer of the reserved codes (60_exceptions.md R189). -/
theorem commandResponse_illegalCmd {op : BitVec 3} :
    commandResponse p op s = .illegalCmd ↔ op = 0b000#3 ∨ op = 0b101#3 ∨ op = 0b110#3 ∨ op = 0b111#3 := by
  have hop := op_cases op
  simp only [commandResponse]
  split_ifs <;> simp_all

/-- A response other than OK is that of a command presented without reset (10_state.md R33). -/
theorem rspCodePort_eq_iff {c : RspCode} (hc : c ≠ .ok) :
    rspCodePort p s i = c ↔ i.rst = false ∧ i.cmdValid = true ∧ commandResponse p i.cmdOp s = c := by
  have hport : rspValidPort i = true ↔ i.rst = false ∧ i.cmdValid = true := by simp [rspValidPort, and_comm]
  rw [rspCodePort, ← and_assoc, ← hport]
  split_ifs with hv <;> simp [hv, hc.symm]

/-! ### The conditions of a cycle -/

/-- A response reports no other condition than its own (60_exceptions.md R185). -/
theorem RspCode.mem_condition {r r' : RspCode} {c : Condition} (h : r.condition = [c]) :
    c ∈ r'.condition ↔ r' = r := by
  cases r <;> cases h <;> cases r' <;> simp [RspCode.condition]

/-- OK reports no condition (60_exceptions.md R185). -/
theorem RspCode.ne_ok_of_condition {r : RspCode} {c : Condition} (h : r.condition = [c]) : r ≠ .ok := by
  rintro rfl
  cases h

/-- No response reports an asynchronous condition (60_exceptions.md R185). -/
theorem RspCode.asynchronous_notMem_condition (r : RspCode) :
    .actuatorError ∉ r.condition ∧ .interrupted ∉ r.condition ∧ .cancelled ∉ r.condition := by
  cases r <;> simp [RspCode.condition]

/-- A synchronous condition is raised in the cycles whose command has its response (60_exceptions.md R185). -/
theorem mem_conditionsRaised_iff_command {c : Condition} {r : RspCode} (h : r.condition = [c]) :
    c ∈ conditionsRaised p s ↔
      s.ports.rst = false ∧ s.ports.cmdValid = true ∧ commandResponse p s.ports.cmdOp s = r := by
  rw [← rspCodePort_eq_iff (RspCode.ne_ok_of_condition h)]
  cases hrst : s.ports.rst with
  | true => simp [conditionsRaised, rspCodePort_eq_iff (RspCode.ne_ok_of_condition h), hrst]
  | false =>
    rw [← RspCode.mem_condition h]
    cases r <;> cases h <;> simp [conditionsRaised, hrst]

/-- ActuatorError is raised in the cycles of a report (60_exceptions.md R190). -/
theorem mem_conditionsRaised_actuatorError :
    .actuatorError ∈ conditionsRaised p s ↔ s.ports.rst = false ∧ s.ports.actErr = true := by
  simp [conditionsRaised, RspCode.asynchronous_notMem_condition]

/-- Interrupted is raised by a wait fault in a slot (60_exceptions.md R191). -/
theorem mem_conditionsRaised_interrupted :
    .interrupted ∈ conditionsRaised p s ↔
      s.ports.rst = false ∧ s.state = .running ∧ s.slotcnt ≠ 0 ∧ s.ports.waitFault = true := by
  simp [conditionsRaised, RspCode.asynchronous_notMem_condition]

/-- Cancelled is raised by a pending cancellation at a boundary with a symbol remaining (60_exceptions.md R192). -/
theorem mem_conditionsRaised_cancelled :
    .cancelled ∈ conditionsRaised p s ↔
      s.ports.rst = false ∧ s.state = .running ∧ s.slotcnt = 0 ∧ s.cursor ≠ seqLen s ∧ s.cancel = true := by
  simp [conditionsRaised, RspCode.asynchronous_notMem_condition]

/-! ### Their records -/

/-- A synchronous condition is recorded in the response of the cycle (60_exceptions.md R185). -/
theorem mem_conditionsRaised_iff_rspCode (h : stepAt p s = .next t) {c : Condition} {r : RspCode}
    (hcr : r.condition = [c]) : c ∈ conditionsRaised p s ↔ t.rspCode = r := by
  obtain ⟨-, hcode⟩ := cycle_response h
  rw [hcode, rspCodePort_eq_iff (RspCode.ne_ok_of_condition hcr), mem_conditionsRaised_iff_command hcr]

/-- ActuatorError is recorded in ACT_WARN, also beside an accepted START (60_exceptions.md R190, R196). -/
theorem actWarn_of_raised (h : stepAt p s = .next t) (ha : .actuatorError ∈ conditionsRaised p s) :
    t.actWarn = true := by
  obtain ⟨hrst, hreport⟩ := mem_conditionsRaised_actuatorError.1 ha
  simp [actWarnNext p s t h, hrst, hreport]

/-- A session ends Interrupted or Cancelled in exactly the cycles of the condition (60_exceptions.md R191, R192). -/
theorem outcome_iff_raised (h : stepAt p s = .next t) (hr : s.state = .running) :
    (.interrupted ∈ conditionsRaised p s ↔ t.state = .interrupted) ∧
    (.cancelled ∈ conditionsRaised p s ↔ t.state = .cancelled) := by
  rw [mem_conditionsRaised_interrupted, mem_conditionsRaised_cancelled]
  cases cycleCase_of_stepAt h with
  | reset hrst => simp [hrst]
  | complete hrst _ hz he => simp [hz, he]
  | cancel hrst _ hz he hk => simp [hrst, hr, hz, he, hk]
  | emit hrst _ hz he hk => simp [hr, hz, hk]
  | interrupt hrst _ hz hf => simp [hrst, hr, hz, hf]
  | wait hrst _ hz hf => simp [hr, hz, hf]
  | push _ hi | clear _ hi | start _ hi | hold _ hi => exact absurd hr hi

/-- Settles O48: a synchronous condition is a response, which R127's table gives its cause; the other three are read
off the inputs and the session, and the step records them. -/
theorem conditionsHaveTheirCauses : Obligations.ConditionsHaveTheirCauses := by
  intro p s t h
  refine ⟨?_, ?_, ?_, ?_, mem_conditionsRaised_actuatorError, mem_conditionsRaised_interrupted,
    mem_conditionsRaised_cancelled, mem_conditionsRaised_iff_rspCode h rfl, mem_conditionsRaised_iff_rspCode h rfl,
    mem_conditionsRaised_iff_rspCode h rfl, mem_conditionsRaised_iff_rspCode h rfl, actWarn_of_raised h,
    outcome_iff_raised h⟩
  · rw [mem_conditionsRaised_iff_command (r := .invalidInput) rfl, commandResponse_invalidInput]
    simp [PortIn.presentsStart, and_assoc]
  · rw [mem_conditionsRaised_iff_command (r := .busy) rfl, commandResponse_busy]
  · rw [mem_conditionsRaised_iff_command (r := .overflow) rfl, commandResponse_overflow]
  · rw [mem_conditionsRaised_iff_command (r := .illegalCmd) rfl, commandResponse_illegalCmd]

end Sys2Proof.Machine
end

section
/-! PROOF. Reset (70_reset_and_hazards.md R220): what a reset cycle leaves of the state before it, and that holding
`rst` is the same as one cycle of it. -/

namespace Sys2Proof.Machine

/-- The step of a reset cycle (70_reset_and_hazards.md R220). -/
theorem step_reset {s : State} (h : s.ports.rst = true) : step s = .next s.beginCycle.applyReset :=
  cycle_reset h

/-- Of the state before it, a reset cycle keeps the message cells and the inputs to come. -/
theorem beginCycle_applyReset_eq (s : State) :
    s.beginCycle.applyReset = { State.reset with msg := s.msg, inputs := s.inputs.tail } := rfl

/-- A reset cycle right after another only takes its inputs off the list. -/
theorem applyReset_beginCycle_applyReset (s : State) :
    s.applyReset.beginCycle.applyReset = { s.applyReset with inputs := s.inputs.tail } := rfl

/-- Settles O33: a reset cycle keeps only the message cells and the inputs to come, which are all that a second one
finds. -/
theorem resetCycle : Obligations.ResetCycle := by
  intro s hrst
  refine ⟨s.beginCycle.applyReset, step_reset hrst, beginCycle_applyReset_eq s, fun hagain => ?_⟩
  rw [step_reset hagain, applyReset_beginCycle_applyReset, applyReset_inputs]

end Sys2Proof.Machine
end

section
/-! PROOF. The words of table rows (30_encoding.md R70, R71, R74, R77): the number that the word of a well-formed
instruction is, as a row's bits, decodes to that instruction. -/

namespace Sys2Proof.Machine

/-- A row's bits that are the word of a well-formed instruction are read as that instruction (30_encoding.md R70, R71,
R74, R77). -/
theorem decodeTableWord_of_encode {nbits w : Nat} {i : Instr} (hword : CodeWord.ofTable nbits w = some (encode i))
    (hwf : i.wf = true) : decodeTableWord nbits w = some i := by
  simp only [decodeTableWord, hword, decodeOfEncodeIsTheInstruction i hwf, Decoded.toOption]

/-- Settles O5: each number is the word of its instruction, so that `decodeTableWord_of_encode` reads it back. -/
theorem writtenWordsDecode : Obligations.WrittenWordsDecode := by
  refine ⟨?push, ?start, ?cancel, ?op7, ?wait, ?finComplete, ?charFrame, ?padFrame, ?startMarker, ?stopMarker⟩
  case push | start | cancel | op7 => exact decodeTableWord_of_encode (by decide) rfl
  case wait | finComplete => exact decodeTableWord_of_encode (by decide) rfl
  case charFrame => exact decodeTableWord_of_encode (by decide) (by decide)
  case padFrame | startMarker | stopMarker => exact decodeTableWord_of_encode (by decide) rfl

end Sys2Proof.Machine
end
